-- ==== Sys2Proof/Word.lean ====
section
/-!
DEFINITION. The widths TXSCHED works with (spec/00_scope.md R9: every value is unsigned, bit 0 is the least
significant), the timestamp as the pair of components the spec gives it, and the answer of the transmit path.
-/
namespace Sys2Proof

/-- One byte of the frame buffer, and the width of an opcode (20_memory R48, 30_encoding R79). -/
abbrev Byte := BitVec 8

/-- One word of the host register file, and the width of a format H command word (10_state R33, 30_encoding R80). -/
abbrev Word := BitVec 32

/-- A point on the monotonic clock: whole seconds and nanoseconds (10_state R18, R31). The type itself admits
`nsec` of 10^9 and more: that the deadline never holds one is a rule (R18), and what the platform drives on `now` is
not checked by the block (70 R163). -/
structure Timestamp where
  sec : BitVec 64
  nsec : BitVec 32
deriving DecidableEq, Repr, Inhabited

/-- The answer of the transmit path to one hand-over (30_encoding R85, R87). -/
inductive TxAnswer where
  | sent
  | wouldBlock
deriving DecidableEq, Repr, Inhabited

end Sys2Proof
end

