-- ==== Sys2Proof/Config.lean ====
section
/-!
DEFINITION. What is fixed for one TXSCHED: the constants of 00_scope R8, the three open parameters and their
defaults, and the free values, which are opaque: nothing in Lean can evaluate them or prove a value of them.
-/
namespace Sys2Proof

namespace Config

/-- `FCS_LEN` (R8): the frame-check sequence is counted in `frame_size` and never stored. -/
def fcsLen : Nat := 4
/-- `MIN_FRAME` (R8). -/
def minFrame : Nat := 64
/-- `MAX_FRAME_UNTAGGED` (R8). -/
def maxFrameUntagged : Nat := 1518
/-- `MAX_FRAME_TAGGED` (R8). -/
def maxFrameTagged : Nat := 1522
/-- `HDR_UNTAGGED` (R8). -/
def hdrUntagged : Nat := 14
/-- `HDR_TAGGED` (R8). -/
def hdrTagged : Nat := 18
/-- `ETHERTYPE_MAX` (R8). -/
def ethertypeMax : Nat := 0xFFFE
/-- `VLAN_ID_MAX` (R8). -/
def vlanIdMax : Nat := 0x0FFF
/-- `VLAN_PCP_MAX` (R8). -/
def vlanPcpMax : Nat := 7
/-- `ARM_SKIP` (R8), in periods. -/
def armSkip : Nat := 2
/-- `FB_CAPACITY` (R8, 20_memory R48). -/
def fbCapacity : Nat := 1518
/-- `NSEC_PER_SEC` (R8); 93 G3 marks it as general knowledge of the spec's writer (log 22). -/
def nsecPerSec : Nat := 1000000000
/-- The number of values a seconds field holds, `2^W_SEC` (R8, 42 R113). -/
def secLimit : Nat := 2 ^ 64

end Config

/-- The open parameter `SEQ_INC_PHASE` (43 R121, 92 D9): where SINC stands relative to the frames of a burst. -/
inductive SeqIncPhase where
  | afterBurst
  | beforeBurst
deriving DecidableEq, Repr

/-- The three open parameters of 00_scope R8. State carries them as data no step changes (log 4), so a statement about
every state holds for every choice of them. -/
structure Params where
  /-- `TPID` (30 R73, 92 D26). -/
  tpid : BitVec 16
  /-- `SEQ_INC_PHASE` (43 R121). -/
  seqIncPhase : SeqIncPhase
  /-- `SPURIOUS_WAKE` (42 R107). -/
  spuriousWake : Bool
deriving DecidableEq, Repr

/-- The defaults of R8, which "every rule and every test vector of this spec uses". DESIGN CHOICE: log 4. -/
def Params.default : Params where
  tpid := 0x8100#16
  seqIncPhase := .afterBurst
  spuriousWake := false

/-- FREE VALUE (log 3): the answer SINK draws at its `n`-th draw, "under no law" (44 R125, 93 U8). -/
opaque Config.sinkAnswer : Nat → TxAnswer

/-- FREE VALUE (log 2): the time CLOCK proposes at its `n`-th step while no move of the environment is listed
(42 R103, 93 U12). -/
opaque Config.clockDraw : Nat → Timestamp

/-- FREE VALUE (log 8): the quotient `n div 0`, which R9 leaves undefined; only ARM with a period of 0 asks for it. -/
opaque Config.ordinalOfZeroPeriod : Nat → Nat

end Sys2Proof
end

