-- ==== Sys2Proof/Syntax.lean ====
section
/-!
DEFINITION. The operations of TXSCHED, one constructor per row of spec/opcode_table.json (30_encoding R81, R82), and
the two forms a control word has (R80, R82). No operation has an operand field.
-/
namespace Sys2Proof

/-- The four host commands (30 R81) and the fifteen micro-operations (30 R82). -/
inductive Instr where
  | nop
  | validate
  | build
  | run
  | fbZero
  | fbWrDmac
  | fbWrSmac
  | fbWrTag
  | fbWrEtype
  | arm
  | wait
  | advance
  | finc
  | frst
  | sinc
  | send
  | bloop
  | tchk
  | halt
deriving DecidableEq, Repr

/-- Who executes an operation: the table of 30_encoding R79. -/
inductive Issuer where
  | host
  | builder
  | sequencer
deriving DecidableEq, Repr

/-- A control word in the form it is presented in: format H on `CMD` (30 R80), format M in `ROM` or in the builder's
fixed order (30 R82). -/
inductive Encoded where
  | command (w : Word)
  | micro (b : Byte)
deriving DecidableEq, Repr

end Sys2Proof
end

