-- ==== Sys2Proof/WellFormed.lean ====
section
/-!
DEFINITION. Well-formedness. An `Instr` carries no operand (30_encoding R80, R82), so every one is well formed; what
can be ill formed is a control word (R80, R83) and a list of words offered as a micro-program (44 R123).
-/
namespace Sys2Proof

/-- Every operation is well formed: none has a field that could be out of range (30 R80, R82). -/
def Instr.wellFormed : Instr → Bool
  | .nop | .validate | .build | .run => true
  | .fbZero | .fbWrDmac | .fbWrSmac | .fbWrTag | .fbWrEtype => true
  | .arm | .wait | .advance => true
  | .finc | .frst | .sinc => true
  | .send | .bloop | .tchk | .halt => true

/-- Check 1 of a command word: bits 31:8, the field `zero`, are 0 (30 R80). -/
def commandZeroField (w : Word) : Bool := w.extractLsb' 8 24 == 0#24

/-- Check 2 of a command word: bits 7:0 are 0x00 to 0x03 (30 R81, R83). -/
def commandOpcodeKnown (w : Word) : Bool := decide ((w.extractLsb' 0 8).toNat ≤ 0x03)

/-- The functions assigned in each class of micro-operations (30 R82); classes 0 and 4 to 15 have none in format M
(30 R79). -/
def microFunctions (cls : Nat) : List Nat :=
  if cls = 1 then [0, 1, 2, 3, 4]
  else if cls = 2 then [0, 1, 2]
  else if cls = 3 then [0, 1, 2, 8, 9, 10, 15]
  else []

/-- Check 1 of a format M word: its class `op[7:4]` is one that holds micro-operations (30 R79). -/
def microClassKnown (b : Byte) : Bool := (microFunctions (b.extractLsb' 4 4).toNat) != []

/-- Check 2 of a format M word: its function `op[3:0]` is assigned within its class (30 R82, R83). -/
def microFunctionKnown (b : Byte) : Bool :=
  (microFunctions (b.extractLsb' 4 4).toNat).contains (b.extractLsb' 0 4).toNat

/-- A control word that encodes an operation (30 R80 to R83). -/
def Encoded.wellFormed : Encoded → Bool
  | .command w => commandZeroField w && commandOpcodeKnown w
  | .micro b => microClassKnown b && microFunctionKnown b

/-- An entry a micro-program may hold: a well-formed format M word of class 2 or 3 (30 R79). -/
def romEntryWellFormed (b : Byte) : Bool :=
  (Encoded.micro b).wellFormed && decide (2 ≤ (b.extractLsb' 4 4).toNat)

/-- A micro-program: twelve entries (44 R123), each fit for the sequencer. -/
def romWellFormed (rom : List Byte) : Bool := (rom.length == 12) && rom.all romEntryWellFormed

end Sys2Proof
end

