-- ==== Sys2Proof/Decode.lean ====
section
/-!
DEFINITION. The decoder, total on every command word and every format M word, rejecting by name, and the encoder
after it. Both are written from the tables of 30_encoding R81 and R82.
-/
namespace Sys2Proof

/-- Why a control word encodes no operation (30_encoding R83). -/
inductive DecodeError where
  /-- A command word whose bits 31:8 are not zero. -/
  | commandBitsNotZero (w : Word)
  /-- A command word whose low byte is not 0x00 to 0x03. -/
  | notAHostCommand (op : Byte)
  /-- A format M word with a reserved opcode. -/
  | reservedOpcode (op : Byte)
deriving DecidableEq, Repr

/-- The host commands and their opcodes (30 R81). -/
def hostOpcodes : List (Byte × Instr) :=
  [(0x00#8, .nop), (0x01#8, .validate), (0x02#8, .build), (0x03#8, .run)]

/-- The micro-operations and their opcodes (30 R82). -/
def microOpcodes : List (Byte × Instr) :=
  [(0x10#8, .fbZero), (0x11#8, .fbWrDmac), (0x12#8, .fbWrSmac), (0x13#8, .fbWrTag), (0x14#8, .fbWrEtype),
   (0x20#8, .arm), (0x21#8, .wait), (0x22#8, .advance),
   (0x30#8, .finc), (0x31#8, .frst), (0x32#8, .sinc),
   (0x38#8, .send), (0x39#8, .bloop), (0x3A#8, .tchk), (0x3F#8, .halt)]

/-- The operation an opcode stands for in a table of opcodes. -/
def lookupOpcode : List (Byte × Instr) → Byte → Option Instr
  | [], _ => none
  | (op, i) :: rows, b => if b = op then some i else lookupOpcode rows b

/-- Decoding of a word written to `CMD` (30 R80, R83; 40 R90, its first line). -/
def decodeCommand (w : Word) : Except DecodeError Instr :=
  if w.extractLsb' 8 24 = 0#24 then
    match lookupOpcode hostOpcodes (w.extractLsb' 0 8) with
    | some i => .ok i
    | none => .error (.notAHostCommand (w.extractLsb' 0 8))
  else .error (.commandBitsNotZero w)

/-- Decoding of a format M word (30 R82, R83). -/
def decodeMicro (b : Byte) : Except DecodeError Instr :=
  match lookupOpcode microOpcodes b with
  | some i => .ok i
  | none => .error (.reservedOpcode b)

/-- The decoder: total on both forms of a control word. -/
def decode : Encoded → Except DecodeError Instr
  | .command w => decodeCommand w
  | .micro b => decodeMicro b

/-- The word of an operation (30 R81, R82). -/
def encode : Instr → Encoded
  | .nop => .command 0x00000000#32
  | .validate => .command 0x00000001#32
  | .build => .command 0x00000002#32
  | .run => .command 0x00000003#32
  | .fbZero => .micro 0x10#8
  | .fbWrDmac => .micro 0x11#8
  | .fbWrSmac => .micro 0x12#8
  | .fbWrTag => .micro 0x13#8
  | .fbWrEtype => .micro 0x14#8
  | .arm => .micro 0x20#8
  | .wait => .micro 0x21#8
  | .advance => .micro 0x22#8
  | .finc => .micro 0x30#8
  | .frst => .micro 0x31#8
  | .sinc => .micro 0x32#8
  | .send => .micro 0x38#8
  | .bloop => .micro 0x39#8
  | .tchk => .micro 0x3A#8
  | .halt => .micro 0x3F#8

/-- Who executes an operation, by the class of its opcode (30 R79). -/
def Instr.issuer : Instr → Issuer
  | .nop | .validate | .build | .run => .host
  | .fbZero | .fbWrDmac | .fbWrSmac | .fbWrTag | .fbWrEtype => .builder
  | .arm | .wait | .advance => .sequencer
  | .finc | .frst | .sinc => .sequencer
  | .send | .bloop | .tchk | .halt => .sequencer

/-- The control word whose bits are `w`, as spec/opcode_table.json numbers them: a row of 32 bits is a command word, a
row of 8 bits a format M word; TXSCHED has no other widths (30 R84). -/
def tableWord (nbits w : Nat) : Option Encoded :=
  if nbits = 32 then some (.command (BitVec.ofNat 32 w))
  else if nbits = 8 then some (.micro (BitVec.ofNat 8 w))
  else none

/-- What the decoder reads from a word of the opcode table. -/
def decodeTableWord (nbits w : Nat) : Option Instr :=
  match tableWord nbits w with
  | some e => (decode e).toOption
  | none => none

end Sys2Proof
end

