-- ==== Sys2Proof/Machine/State.lean ====
section
/-!
DEFINITION. The state of TXSCHED (10_state R13) with what its environment drives and what a model observes of it, the
reasons a step can stop, and the state after reset (70_reset_and_hazards R153, 10_state R47).
-/
namespace Sys2Proof.Machine

/-- The states of the transmission loop (10 R21). The codes 6 and 7 of the 3-bit register are "never held"; the model
has no value for them (log 9). -/
inductive St where
  | idle
  | arming
  | burstSending
  | cycleWaiting
  | done
  | error
deriving DecidableEq, Repr

/-- The causes of a ConfigurationError, in the order VALIDATE checks them (60 R134, R140). -/
inductive ConfigError where
  | ethertype
  | vlanId
  | vlanPcp
  | frameSize
  | burstSize
  | nBursts
  | cycleTime
deriving DecidableEq, Repr

/-- The causes of a fault of the block: a time that does not fit the timestamp (60 R134, 42 R113). These are next
states of the model (`st` becomes ERROR), not stops of it. -/
inductive TimeFault where
  | armOverflow
  | advanceOverflow
deriving DecidableEq, Repr

/-- The configuration record (10 R24), each field at the width of its register. -/
structure Cfg where
  ethertype : BitVec 16
  vlanTagged : Bool
  vlanId : BitVec 16
  vlanPcp : BitVec 8
  frameSize : BitVec 16
  burstSize : BitVec 32
  nBurstsEn : Bool
  nBursts : BitVec 32
  cycleTimeNs : BitVec 64
  destMac : BitVec 48
  srcMac : BitVec 48
deriving DecidableEq, Repr

/-- The frame buffer as (offset, byte) pairs, offsets strictly rising (20 R48). An offset that is not listed holds no
value: nothing has written it since reset (20 R49, R51; log 5). -/
abbrev Memory := List Host.Cell

/-- One action of one agent, in the notation of 30 R89. -/
inductive Move where
  /-- `RESET`: `rst = 1` for one edge (70 R153). -/
  | rst
  /-- `WR`: a host write of `w` to `a` (40 R95). -/
  | hostWrite (a : BitVec 12) (w : Word)
  /-- `RD`: a host read of `a` (40 R96). -/
  | hostRead (a : BitVec 12)
  /-- `NOW`: the platform drives `now` to `t` (42 R103). -/
  | clock (t : Timestamp)
  /-- `SINK`: the answer a coming SEND draws (44 R125), lined up after those already waiting. -/
  | sink (answer : TxAnswer)
  /-- `STEP`: the sequencer takes its step, if it has one (44 R122). -/
  | seq
deriving DecidableEq, Repr

/-- An event of the observable trace (30 R88). -/
inductive Event where
  | tx (bytes : List Byte) (outcome : TxAnswer) (t : Nat)
  | release (t : Nat)
deriving DecidableEq, Repr

/-- What the output ports of 10 R32 showed in the step that led to a state (log 12); `done` and `error` are functions
of `st` and are not listed. -/
structure Ports where
  /-- `h_rdata`, where it is valid: after a host read. -/
  hRdata : Option Word
  txReq : Bool
  txLen : BitVec 11
  txData : List Byte
  txRelease : Bool
deriving DecidableEq, Repr

/-- The outputs of a step that drives none of them, and of reset (10 R47). -/
def Ports.quiet : Ports where
  hRdata := none
  txReq := false
  txLen := 0#11
  txData := []
  txRelease := false

/-- Why the machine stops. None of these is an error of TXSCHED (those are the state ERROR), and none is reached in a
run from reset. -/
inductive Fault where
  /-- Raised by the sequencer where `upc` is 12 to 31 while it runs: "no step in them (stuck)" (30 R83). Safe. -/
  | sequencerStuck (upc : BitVec 5)
  /-- Raised by SEND, and by a host read of the open window, where a byte of the frame has no value because nothing
  has written it (20 R51). Safe. -/
  | fbUnspecified
  /-- Raised by a write to an offset outside `FB[0 .. 1517]`, which the spec says does not exist (20 R52). Safe. -/
  | fbOutOfRange
deriving DecidableEq, Repr

/-- Why an operation is refused. -/
inductive Refusal where
  /-- Raised by `exec` for an operation that has no meaning yet. Safe. -/
  | notModelled (mnemonic : String)
  /-- Raised where a format M word with a reserved opcode is presented: "a model's decoder refuses them" (30 R83).
  Safe. -/
  | reservedMicroWord (op : Byte)
deriving DecidableEq, Repr

/-- The state of the block (10 R13), then the ports, then what the model adds for the environment and the trace. -/
structure State where
  seqId : BitVec 32
  frameId : BitVec 32
  nextDeadline : Timestamp
  periodNs : BitVec 64
  st : St
  upc : BitVec 5
  cfg : Cfg
  cfgValid : Bool
  built : Bool
  seqWrapped : Bool
  cmdRej : Bool
  errCode : BitVec 8
  fb : Memory
  /-- The input `now` as the platform drives it (10 R31). -/
  now : Timestamp
  /-- The output ports during the last step (10 R32; log 12). -/
  out : Ports
  /-- The MODEL's: the open parameters (00 R8; log 4). -/
  params : Params
  /-- The MODEL's: the moves of the agents still to come, the next one first (00 R7; log 1). -/
  agenda : List Move
  /-- The MODEL's: answers SINK has lined up, the next one first (30 R89; log 3). -/
  sinkQueue : List TxAnswer
  /-- The MODEL's: how many free answers have been drawn (log 3). -/
  sinkDraws : Nat
  /-- The MODEL's: how many free times have been drawn (log 2). -/
  clockDraws : Nat
  /-- The MODEL's: a format M word presented on its own; no step ever fills it (log 10). -/
  microSlot : Option Byte
  /-- The MODEL's: the events so far, oldest first (30 R88: "the model's bookkeeping"). -/
  trace : List Event
deriving DecidableEq, Repr

/-- Every field of `cfg` at 0 (10 R24, 70 R153). -/
def Cfg.reset : Cfg where
  ethertype := 0#16
  vlanTagged := false
  vlanId := 0#16
  vlanPcp := 0#8
  frameSize := 0#16
  burstSize := 0#32
  nBurstsEn := false
  nBursts := 0#32
  cycleTimeNs := 0#64
  destMac := 0#48
  srcMac := 0#48

/-- The machine right after reset (70 R153, 10 R47). `fb` lists nothing: its bytes are unspecified (20 R51). The value
of `now` is a DESIGN CHOICE (log 14); the model's own fields start empty. -/
def State.reset : State where
  seqId := 0#32
  frameId := 0#32
  nextDeadline := ⟨0#64, 0#32⟩
  periodNs := 0#64
  st := .idle
  upc := 0#5
  cfg := Cfg.reset
  cfgValid := false
  built := false
  seqWrapped := false
  cmdRej := false
  errCode := 0#8
  fb := []
  now := ⟨0#64, 0#32⟩
  out := Ports.quiet
  params := Params.default
  agenda := []
  sinkQueue := []
  sinkDraws := 0
  clockDraws := 0
  microSlot := none
  trace := []

/-- The answer of every meaning and of the step. -/
abbrev Result := Host.Outcome State Fault Refusal

end Sys2Proof.Machine
end

