-- ==== Sys2Proof/Machine/Operands.lean ====
section
/-!
DEFINITION. The operands: the derived quantities of 00_scope R11, the conversions between timestamps and nanoseconds
of R10, the assembly of packed operands of 30_encoding R86, the micro-program and its branch targets of
44_transmission_loop R123, and the address map of the host register file of 10_state R33.
-/
namespace Sys2Proof.Machine

/-- `ns(t)` (00 R10). The constant stands first so that comparing two times of symbolic states stays cheap for the
kernel. -/
def ns (t : Timestamp) : Nat := Config.nsecPerSec * t.sec.toNat + t.nsec.toNat

/-- Whether a number of nanoseconds fits a timestamp: `n div NSEC_PER_SEC < 2^64` (42 R113). -/
def fitsTimestamp (n : Nat) : Bool := decide (n / Config.nsecPerSec < Config.secLimit)

/-- `ts(n)` (00 R10), for an `n` that fits. -/
def ts (n : Nat) : Timestamp :=
  ⟨BitVec.ofNat 64 (n / Config.nsecPerSec), BitVec.ofNat 32 (n % Config.nsecPerSec)⟩

/-- A timestamp in the format of 10 R18: `nsec < NSEC_PER_SEC`. -/
def normalised (t : Timestamp) : Bool := decide (t.nsec.toNat < Config.nsecPerSec)

/-- A step CLOCK may take from `t` to `t'` (42 R103): not backwards, and normalised. -/
def clockLegal (t t' : Timestamp) : Bool := decide (ns t ≤ ns t') && normalised t'

/-- `H`, the header length (00 R11). -/
def headerLen (c : Cfg) : Nat := if c.vlanTagged then Config.hdrTagged else Config.hdrUntagged

/-- `L`, the length of the live part (00 R11), on natural numbers (R9); below 4 it is 0 (log 7). -/
def liveLen (c : Cfg) : Nat := c.frameSize.toNat - Config.fcsLen

/-- `OFF_DMAC` (00 R11). -/
def offDmac : Nat := 0
/-- `OFF_SMAC` (00 R11). -/
def offSmac : Nat := 6
/-- `OFF_TPID` (00 R11). -/
def offTpid : Nat := 12
/-- `OFF_TCI` (00 R11). -/
def offTci : Nat := 14
/-- `OFF_ETYPE` (00 R11). -/
def offEtype (c : Cfg) : Nat := if c.vlanTagged then 16 else 12
/-- `OFF_SEQ` (00 R11). -/
def offSeq (c : Cfg) : Nat := headerLen c
/-- `OFF_FRM` (00 R11). -/
def offFrm (c : Cfg) : Nat := headerLen c + 4
/-- `OFF_PAD` (00 R11). -/
def offPad (c : Cfg) : Nat := headerLen c + 8

/-- The tag control information: `vlan_pcp[2:0] ‖ 0 ‖ vlan_id[11:0]` (30 R74). -/
def tci (c : Cfg) : BitVec 16 := c.vlanPcp.extractLsb' 0 3 ++ 0#1 ++ c.vlanId.extractLsb' 0 12

/-- The largest legal `frame_size` (40 R92). -/
def maxFrame (c : Cfg) : Nat := if c.vlanTagged then Config.maxFrameTagged else Config.maxFrameUntagged

/-- The first check of VALIDATE that fails, in the order of 40 R92 (60 R140). -/
def firstConfigError (c : Cfg) : Option ConfigError :=
  if Config.ethertypeMax < c.ethertype.toNat then some .ethertype
  else if Config.vlanIdMax < c.vlanId.toNat then some .vlanId
  else if Config.vlanPcpMax < c.vlanPcp.toNat then some .vlanPcp
  else if c.frameSize.toNat < Config.minFrame ∨ maxFrame c < c.frameSize.toNat then some .frameSize
  else if c.burstSize = 0#32 then some .burstSize
  else if c.nBurstsEn = true ∧ c.nBursts = 0#32 then some .nBursts
  else if c.cycleTimeNs = 0#64 then some .cycleTime
  else none

/-- The ordinal of the current period, `n div P` (42 R104). R9 defines `div` for `P > 0` only; for `P = 0`, which no
run reaches, the quotient is a free value (log 8). -/
def ordinal (n p : Nat) : Nat := if p = 0 then Config.ordinalOfZeroPeriod n else n / p

/-- The first deadline, `(ordinal + 2) * P` on natural numbers (42 R104). -/
def firstDeadline (n p : Nat) : Nat := (ordinal n p + Config.armSkip) * p

/-- The micro-program as opcodes (44 R123; for the other phase, the annex to D9 in 92_eei_decisions). -/
def rom : SeqIncPhase → List Byte
  | .afterBurst =>
    [0x20#8, 0x21#8, 0x22#8, 0x30#8, 0x38#8, 0x39#8, 0x31#8, 0x32#8, 0x3A#8, 0x21#8, 0x22#8, 0x3F#8]
  | .beforeBurst =>
    [0x20#8, 0x21#8, 0x22#8, 0x32#8, 0x30#8, 0x38#8, 0x39#8, 0x31#8, 0x3A#8, 0x21#8, 0x22#8, 0x3F#8]

/-- The entry of the micro-program at a value of `upc`; 12 to 31 hold nothing (44 R123). -/
def romAt (p : SeqIncPhase) (u : BitVec 5) : Option Byte := (rom p)[u.toNat]?

/-- Where FINC leads (43 R114; 92 annex to D9). -/
def fincNext : SeqIncPhase → BitVec 5
  | .afterBurst => 4#5
  | .beforeBurst => 5#5

/-- Where SEND leads (44 R125; 92 annex to D9). -/
def sendNext : SeqIncPhase → BitVec 5
  | .afterBurst => 5#5
  | .beforeBurst => 6#5

/-- Where BLOOP leads for another frame: to FINC (44 R126; 92 annex to D9). -/
def bloopAgain : SeqIncPhase → BitVec 5
  | .afterBurst => 3#5
  | .beforeBurst => 4#5

/-- Where BLOOP leads when the burst is complete: to FRST (44 R126; 92 annex to D9). -/
def bloopDone : SeqIncPhase → BitVec 5
  | .afterBurst => 6#5
  | .beforeBurst => 7#5

/-- Where FRST leads (43 R116; 92 annex to D9). -/
def frstNext : SeqIncPhase → BitVec 5
  | .afterBurst => 7#5
  | .beforeBurst => 8#5

/-- Where SINC leads (43 R117; 92 annex to D9). -/
def sincNext : SeqIncPhase → BitVec 5
  | .afterBurst => 8#5
  | .beforeBurst => 4#5

/-- `ST_OF(u)` (44 R124); it is not defined for 12 to 31. The table is the same in both phases (92 annex to D9). -/
def stOf (u : BitVec 5) : Option St :=
  if u.toNat ≤ 2 then some .arming
  else if u.toNat ≤ 8 then some .burstSending
  else if u.toNat ≤ 10 then some .cycleWaiting
  else if u.toNat = 11 then some .burstSending
  else none

/-- A register of the host register file (10 R33). -/
inductive Reg where
  | cmd
  | status
  | err
  | upc
  | cfgEtype
  | cfgVlan
  | cfgCtl
  | cfgFsize
  | cfgBurst
  | cfgNbursts
  | cfgCycleLo
  | cfgCycleHi
  | cfgDmacLo
  | cfgDmacHi
  | cfgSmacLo
  | cfgSmacHi
  | seqId
  | frameId
  | dlSecLo
  | dlSecHi
  | dlNsec
  | periodLo
  | periodHi
  | fbLen
  | fbWin (k : Nat)
  | reserved
deriving DecidableEq, Repr

/-- The registers from address 0x000 up, one a word (10 R33). -/
def lowRegs : List Reg :=
  [.cmd, .status, .err, .upc, .cfgEtype, .cfgVlan, .cfgCtl, .cfgFsize, .cfgBurst, .cfgNbursts, .cfgCycleLo, .cfgCycleHi,
   .cfgDmacLo, .cfgDmacHi, .cfgSmacLo, .cfgSmacHi, .seqId, .frameId, .dlSecLo, .dlSecHi, .dlNsec, .periodLo, .periodHi,
   .fbLen]

/-- The address map (10 R33): bits 1:0 of the address are ignored, 0x060 to 0x7FC and 0xDF0 to 0xFFC are reserved, and
0x800 to 0xDEC is the window `FB_WIN[0 .. 379]`. -/
def regOf (a : BitVec 12) : Reg :=
  let i := a.toNat / 4
  match lowRegs[i]? with
  | some r => r
  | none => if 512 ≤ i ∧ i ≤ 891 then .fbWin (i - 512) else .reserved

end Sys2Proof.Machine
end

