-- ==== Sys2Proof/Machine/Flags.lean ====
section
/-!
DEFINITION. The flags, the codes and the conditions: every flag computation of the spec, the acceptance conditions of
40_host_commands R90, the codes of 10_state R21 and 60_exceptions R134, and the STATUS word of 10_state R35.
-/
namespace Sys2Proof.Machine

/-- The code of a state (10 R21). -/
def stCode : St → BitVec 3
  | .idle => 0#3
  | .arming => 1#3
  | .burstSending => 2#3
  | .cycleWaiting => 3#3
  | .done => 4#3
  | .error => 5#3

/-- The code of a ConfigurationError (60 R134). -/
def configErrorCode : ConfigError → BitVec 8
  | .ethertype => 0x01#8
  | .vlanId => 0x02#8
  | .vlanPcp => 0x03#8
  | .frameSize => 0x04#8
  | .burstSize => 0x05#8
  | .nBursts => 0x06#8
  | .cycleTime => 0x07#8

/-- The code of a fault (60 R134). -/
def timeFaultCode : TimeFault → BitVec 8
  | .armOverflow => 0x20#8
  | .advanceOverflow => 0x21#8

/-- The bit SINK answers with on `tx_result` (30 R85). -/
def txAnswerCode : TxAnswer → BitVec 1
  | .sent => 0#1
  | .wouldBlock => 1#1

/-- The states in which the sequencer has a step (44 R122). -/
def stRuns : St → Bool
  | .arming | .burstSending | .cycleWaiting => true
  | .idle | .done | .error => false

/-- The states in which the read window is open (20 R62). -/
def windowState : St → Bool
  | .idle | .done | .error => true
  | .arming | .burstSending | .cycleWaiting => false

/-- The output `done` (60 R145). -/
def State.done (s : State) : Bool := decide (s.st = .done)

/-- The output `error` (60 R145). -/
def State.error (s : State) : Bool := decide (s.st = .error)

/-- "While unlocked" (10 R25, R33). -/
def State.unlocked (s : State) : Bool := decide (s.st = .idle) && !s.cfgValid

/-- VALIDATE is accepted (40 R90, R92). -/
def State.acceptsValidate (s : State) : Bool := decide (s.st = .idle) && !s.cfgValid

/-- BUILD is accepted (40 R90, R93). -/
def State.acceptsBuild (s : State) : Bool := decide (s.st = .idle) && s.cfgValid && !s.built

/-- RUN is accepted (40 R90, R94). -/
def State.acceptsRun (s : State) : Bool := decide (s.st = .idle) && s.cfgValid && s.built

/-- WAIT is enabled (42 R106, R107). -/
def State.waitEnabled (s : State) : Bool := decide (ns s.nextDeadline ≤ ns s.now) || s.params.spuriousWake

/-- The value `seq_wrapped` takes at a SINC: sticky, and set when `seq_id` is at its last value (43 R118). -/
def State.wrapFlag (s : State) : Bool := s.seqWrapped || decide (s.seqId = 0xFFFFFFFF#32)

/-- The condition on which BLOOP sends another frame of the burst (44 R126). -/
def State.burstOpen (s : State) : Bool := decide (s.frameId.toNat < s.cfg.burstSize.toNat)

/-- The condition on which TCHK ends the run (44 R127). -/
def State.runComplete (s : State) : Bool := s.cfg.nBurstsEn && decide (s.seqId = s.cfg.nBursts)

/-- The read window returns bytes of the buffer (20 R62). -/
def State.windowOpen (s : State) : Bool := s.built && windowState s.st

/-- The word `STATUS` reads (10 R35). -/
def statusWord (s : State) : Word :=
  0#23 ++ BitVec.ofBool s.error ++ BitVec.ofBool s.done ++ BitVec.ofBool s.cmdRej ++ BitVec.ofBool s.seqWrapped
    ++ BitVec.ofBool s.built ++ BitVec.ofBool s.cfgValid ++ stCode s.st

end Sys2Proof.Machine
end

