-- ==== Sys2Proof/Machine/Ops.lean ====
section
/-!
DEFINITION. The named operations every meaning is written with: the frame buffer and its accesses (20_memory), the
three ways something goes wrong (60_exceptions R135, R138, R139) and the way out of ERROR and DONE (reset, R142), the
micro-program counter, the trace, and the host register file.
-/
namespace Sys2Proof.Machine

/-- Go on with `f` where `o` is a next state; a stop stays as it is. -/
def andThen (o : Result) (f : State → Result) : Result :=
  match o with
  | .next s => f s
  | .fault r => .fault r
  | .refused r => .refused r

/-! ### The frame buffer -/

/-- The byte at an offset, if it has a value: what an unlisted offset reads as is "no value" (20 R51; log 5). -/
def Memory.read : Memory → Nat → Option Byte
  | [], _ => none
  | (b, v) :: m, a => if a = b then some v else Memory.read m a

/-- One byte written. The canonical form is kept: offsets strictly rising (20 R57). -/
def Memory.write : Memory → Nat → Byte → Memory
  | [], a, v => [(a, v)]
  | (b, w) :: m, a, v =>
    if a < b then (a, v) :: (b, w) :: m
    else if a = b then (a, v) :: m
    else (b, w) :: Memory.write m a v

/-- Offsets strictly rising from `lo` on, all of them offsets of `FB` (20 R48). -/
def Memory.wfFrom : Nat → Memory → Bool
  | _, [] => true
  | lo, (a, _) :: m => decide (lo ≤ a) && decide (a < Config.fbCapacity) && Memory.wfFrom (a + 1) m

/-- The canonical form: offsets strictly rising and within `FB[0 .. 1517]`. No entry can equal what an unlisted offset
reads as, since that is "no value". -/
def Memory.wf (m : Memory) : Bool := Memory.wfFrom 0 m

/-- The bytes of `v` as `n` bytes in network byte order: byte `i` is `v[8(n-i)-1 : 8(n-1-i)]` (20 R55, R57). -/
def netBytes : Nat → Nat → List Byte
  | 0, _ => []
  | n + 1, v => BitVec.ofNat 8 (v / 256 ^ n) :: netBytes n v

/-- The number whose bytes in network byte order are `bs` (20 R55, R56). -/
def netNumber : List Byte → Nat
  | [] => 0
  | b :: bs => b.toNat * 256 ^ bs.length + netNumber bs

/-- Consecutive bytes written from an offset up (20 R57). -/
def Memory.writeBytes : Memory → Nat → List Byte → Memory
  | m, _, [] => m
  | m, a, b :: bs => Memory.writeBytes (m.write a b) (a + 1) bs

/-- `n` consecutive bytes read from an offset up, if all have a value (20 R56). -/
def Memory.readBytes (m : Memory) : Nat → Nat → Option (List Byte)
  | _, 0 => some []
  | a, n + 1 =>
    match m.read a, Memory.readBytes m (a + 1) n with
    | some b, some bs => some (b :: bs)
    | _, _ => none

/-- `MemRead(a, n)` (20 R56, for `a + n <= L`; beyond the live part DESIGN CHOICE, log 23). -/
def Memory.memRead (m : Memory) (a n : Nat) : Option Nat := (m.readBytes a n).map netNumber

/-- `n` zero bytes from an offset up. -/
def zeroCells : Nat → Nat → Memory
  | _, 0 => []
  | a, n + 1 => (a, 0#8) :: zeroCells (a + 1) n

/-- The first `n` bytes of the buffer at zero, the others as they were (41 R97). -/
def Memory.zeroFill (m : Memory) (n : Nat) : Memory := zeroCells 0 n ++ m.filter (fun c => decide (n ≤ c.1))

/-- `MemWrite(a, n, v)` (20 R57); an offset outside `FB` does not exist (20 R52; log 6). R57 gives it a meaning for
`a + n <= L` only. DESIGN CHOICE, log 23: beyond the live part but inside `FB`, which no run reaches, the bytes are
written all the same. -/
def memWrite (a n v : Nat) (s : State) : Result :=
  if a + n ≤ Config.fbCapacity then .next { s with fb := s.fb.writeBytes a (netBytes n v) }
  else .fault .fbOutOfRange

/-- `FB[0 .. n-1] <- 0x00` (41 R97). -/
def memZero (n : Nat) (s : State) : Result :=
  if n ≤ Config.fbCapacity then .next { s with fb := s.fb.zeroFill n }
  else .fault .fbOutOfRange

/-! ### Errors, rejection, reset -/

/-- `raise ConfigurationError(code)` (60 R135). -/
def raiseConfig (e : ConfigError) (s : State) : Result :=
  .next { s with errCode := configErrorCode e, st := .error, cfgValid := false }

/-- `raise Fault(code)` (60 R138). -/
def raiseFault (e : TimeFault) (s : State) : Result :=
  .next { s with errCode := timeFaultCode e, st := .error }

/-- `reject` (60 R139). -/
def reject (s : State) : Result := .next { s with cmdRej := true }

/-- Reset (70 R153): the whole state of the block at its reset values. The bytes of FB are unspecified from then on
(20 R51), so the model forgets them (log 5). What belongs to the environment stays, and so do the events already in the
trace (70 R154). It is the only way out of ERROR and DONE (60 R142). -/
def State.doReset (s : State) : State :=
  { State.reset with
    now := s.now
    params := s.params
    agenda := s.agenda
    sinkQueue := s.sinkQueue
    sinkDraws := s.sinkDraws
    clockDraws := s.clockDraws
    microSlot := s.microSlot
    trace := s.trace }

/-! ### The sequencer's registers and the trace -/

/-- `upc <- u`, with `st` following by `ST_OF` (00 R10, 44 R122, R124). Where `ST_OF(u)` is not defined, no rule writes
`st`. -/
def State.setUpc (s : State) (u : BitVec 5) : State :=
  { s with upc := u, st := (stOf u).getD s.st }

/-- `emit` (00 R10, 30 R88). -/
def State.emit (s : State) (e : Event) : State := { s with trace := s.trace ++ [e] }

/-- The answer SINK gives to the hand-over being made: the first one lined up, else a free value (44 R125; log 3). -/
def State.sinkAnswer (s : State) : TxAnswer :=
  match s.sinkQueue with
  | [] => Config.sinkAnswer s.sinkDraws
  | o :: _ => o

/-- SINK has given its answer. -/
def State.sinkAnswered (s : State) : State :=
  match s.sinkQueue with
  | [] => { s with sinkDraws := s.sinkDraws + 1 }
  | _ :: rest => { s with sinkQueue := rest }

/-- What the output ports show during a hand-over of `bytes` (10 R32, 30 R87). -/
def State.showTx (s : State) (bytes : List Byte) : State :=
  { s with out := { s.out with txReq := true, txLen := BitVec.ofNat 11 (liveLen s.cfg), txData := bytes } }

/-- The pulse on `tx_release` (60 R145). -/
def State.showRelease (s : State) : State := { s with out := { s.out with txRelease := true } }

/-- A step begins with no output driven (log 12). -/
def State.beginStep (s : State) : State := { s with out := Ports.quiet }

/-! ### CLOCK and SINK -/

/-- The time after CLOCK's free step: the time it proposes, where 42 R103 allows it, else the time as it was (log 2). -/
def State.drawnTime (s : State) : Timestamp :=
  if clockLegal s.now (Config.clockDraw s.clockDraws) then Config.clockDraw s.clockDraws else s.now

/-- CLOCK's step where no move of the environment is listed (log 2). -/
def State.clockTick (s : State) : State := { s with now := s.drawnTime, clockDraws := s.clockDraws + 1 }

/-! ### The host register file -/

/-- The byte `b(j)` of the read window: `FB[a]` within the live part, else 0 (20 R62). A byte of the live part that
nothing has written has no value (20 R51; log 5). -/
def windowByte (s : State) (a : Nat) : Option Byte := if a < liveLen s.cfg then s.fb.read a else some 0#8

/-- The word `FB_WIN[k]` (20 R62). -/
def windowWord (s : State) (k : Nat) : Option Word :=
  if s.windowOpen then
    match windowByte s (4 * k), windowByte s (4 * k + 1), windowByte s (4 * k + 2), windowByte s (4 * k + 3) with
    | some b0, some b1, some b2, some b3 => some (b0 ++ b1 ++ b2 ++ b3)
    | _, _, _, _ => none
  else some 0#32

/-- The word a register reads (10 R33 to R45, 40 R96); none only for a window word with a byte that has no value. -/
def readReg (s : State) : Reg → Option Word
  | .cmd => some 0#32
  | .status => some (statusWord s)
  | .err => some (s.errCode.setWidth 32)
  | .upc => some (s.upc.setWidth 32)
  | .cfgEtype => some (s.cfg.ethertype.setWidth 32)
  | .cfgVlan => some (0#8 ++ s.cfg.vlanPcp ++ s.cfg.vlanId)
  | .cfgCtl => some (0#30 ++ BitVec.ofBool s.cfg.nBurstsEn ++ BitVec.ofBool s.cfg.vlanTagged)
  | .cfgFsize => some (s.cfg.frameSize.setWidth 32)
  | .cfgBurst => some s.cfg.burstSize
  | .cfgNbursts => some s.cfg.nBursts
  | .cfgCycleLo => some (s.cfg.cycleTimeNs.extractLsb' 0 32)
  | .cfgCycleHi => some (s.cfg.cycleTimeNs.extractLsb' 32 32)
  | .cfgDmacLo => some (s.cfg.destMac.extractLsb' 0 32)
  | .cfgDmacHi => some ((s.cfg.destMac.extractLsb' 32 16).setWidth 32)
  | .cfgSmacLo => some (s.cfg.srcMac.extractLsb' 0 32)
  | .cfgSmacHi => some ((s.cfg.srcMac.extractLsb' 32 16).setWidth 32)
  | .seqId => some s.seqId
  | .frameId => some s.frameId
  | .dlSecLo => some (s.nextDeadline.sec.extractLsb' 0 32)
  | .dlSecHi => some (s.nextDeadline.sec.extractLsb' 32 32)
  | .dlNsec => some s.nextDeadline.nsec
  | .periodLo => some (s.periodNs.extractLsb' 0 32)
  | .periodHi => some (s.periodNs.extractLsb' 32 32)
  | .fbLen => some (if s.cfgValid then (BitVec.ofNat 11 (liveLen s.cfg)).setWidth 32 else 0#32)
  | .fbWin k => windowWord s k
  | .reserved => some 0#32

/-- `HostRead(a)` (40 R96). -/
def hostReadWord (s : State) (a : BitVec 12) : Option Word := readReg s (regOf a)

/-- The configuration after a write of `w` to a register: the named fields take the named bits, the reserved bits are
dropped (10 R38 to R44). A register that is no `CFG_*` register leaves it as it is. -/
def writeCfg (c : Cfg) (r : Reg) (w : Word) : Cfg :=
  match r with
  | .cfgEtype => { c with ethertype := w.extractLsb' 0 16 }
  | .cfgVlan => { c with vlanId := w.extractLsb' 0 16, vlanPcp := w.extractLsb' 16 8 }
  | .cfgCtl => { c with vlanTagged := w.getLsbD 0, nBurstsEn := w.getLsbD 1 }
  | .cfgFsize => { c with frameSize := w.extractLsb' 0 16 }
  | .cfgBurst => { c with burstSize := w }
  | .cfgNbursts => { c with nBursts := w }
  | .cfgCycleLo => { c with cycleTimeNs := c.cycleTimeNs.extractLsb' 32 32 ++ w }
  | .cfgCycleHi => { c with cycleTimeNs := w ++ c.cycleTimeNs.extractLsb' 0 32 }
  | .cfgDmacLo => { c with destMac := c.destMac.extractLsb' 32 16 ++ w }
  | .cfgDmacHi => { c with destMac := w.extractLsb' 0 16 ++ c.destMac.extractLsb' 0 32 }
  | .cfgSmacLo => { c with srcMac := c.srcMac.extractLsb' 32 16 ++ w }
  | .cfgSmacHi => { c with srcMac := w.extractLsb' 0 16 ++ c.srcMac.extractLsb' 0 32 }
  | .cmd | .status | .err | .upc | .seqId | .frameId | .dlSecLo | .dlSecHi | .dlNsec | .periodLo | .periodHi => c
  | .fbLen | .fbWin _ | .reserved => c

/-- A host write to a register other than `CMD`: taken while unlocked, else ignored without a flag (40 R95, 10 R25). -/
def writeReg (s : State) (r : Reg) (w : Word) : State :=
  if s.unlocked then { s with cfg := writeCfg s.cfg r w } else s

end Sys2Proof.Machine
end

