-- ==== Sys2Proof/Machine/CounterEngine.lean ====
section
/-!
DEFINITION. The counter update engine's micro-operations (43_counter_engine R114, R116, R117): each changes one counter
and rewrites its field of the buffer in the same step.
-/
namespace Sys2Proof.Machine

/-- FINC (43 R114). The addition is modulo 2^32 for totality, which R115 allows. -/
def execFinc (s : State) : Result :=
  andThen (memWrite (offFrm s.cfg) 4 (s.frameId + 1#32).toNat s) fun s1 =>
  .next ({ s1 with frameId := s.frameId + 1#32 }.setUpc (fincNext s.params.seqIncPhase))

/-- FRST (43 R116). -/
def execFrst (s : State) : Result :=
  andThen (memWrite (offFrm s.cfg) 4 0 s) fun s1 =>
  .next ({ s1 with frameId := 0#32 }.setUpc (frstNext s.params.seqIncPhase))

/-- SINC (43 R117, R118): modulo 2^32, the wrap recorded in the sticky flag. -/
def execSinc (s : State) : Result :=
  andThen (memWrite (offSeq s.cfg) 4 (s.seqId + 1#32).toNat s) fun s1 =>
  .next ({ s1 with seqId := s.seqId + 1#32, seqWrapped := s.wrapFlag }.setUpc (sincNext s.params.seqIncPhase))

end Sys2Proof.Machine
end

