-- ==== Sys2Proof/Machine/CycleScheduler.lean ====
section
/-!
DEFINITION. The cycle scheduler's micro-operations (42_cycle_scheduler R104, R106, R108). Each is the effect of the
operation once the sequencer executes it; that the sequencer executes it only at its place in `ROM` while it runs is
the step's (44 R122; log 10).
-/
namespace Sys2Proof.Machine

/-- ARM (42 R104): the first deadline on the grid of the period, two periods past the current one. -/
def execArm (s : State) : Result :=
  if fitsTimestamp (firstDeadline (ns s.now) s.cfg.cycleTimeNs.toNat) then
    .next ({ s with
      periodNs := s.cfg.cycleTimeNs
      nextDeadline := ts (firstDeadline (ns s.now) s.cfg.cycleTimeNs.toNat) }.setUpc 1#5)
  else raiseFault .armOverflow s

/-- WAIT (42 R106, R107): held, with nothing written, until the deadline has come. -/
def execWait (s : State) : Result :=
  if s.waitEnabled then .next (s.setUpc (s.upc + 1#5)) else .next s

/-- ADVANCE (42 R108): one period added to the deadline, whatever the time is. -/
def execAdvance (s : State) : Result :=
  if fitsTimestamp (ns s.nextDeadline + s.periodNs.toNat) then
    .next ({ s with nextDeadline := ts (ns s.nextDeadline + s.periodNs.toNat) }.setUpc 3#5)
  else raiseFault .advanceOverflow s

end Sys2Proof.Machine
end

