-- ==== Sys2Proof/Machine/FrameBuilder.lean ====
section
/-!
DEFINITION. The frame builder's micro-operations (41_frame_builder R97 to R101). They run inside BUILD only; each is
its effect alone, since BUILD checks the acceptance (log 10).
-/
namespace Sys2Proof.Machine

/-- FB_ZERO (41 R97): `FB[0 .. L-1] <- 0x00`. -/
def execFbZero (s : State) : Result := memZero (liveLen s.cfg) s

/-- FB_WR_DMAC (41 R98). -/
def execFbWrDmac (s : State) : Result := memWrite offDmac 6 s.cfg.destMac.toNat s

/-- FB_WR_SMAC (41 R99). -/
def execFbWrSmac (s : State) : Result := memWrite offSmac 6 s.cfg.srcMac.toNat s

/-- FB_WR_TAG (41 R100): the TPID and the TCI, only if tagged. -/
def execFbWrTag (s : State) : Result :=
  if s.cfg.vlanTagged then
    andThen (memWrite offTpid 2 s.params.tpid.toNat s) (memWrite offTci 2 (tci s.cfg).toNat)
  else .next s

/-- FB_WR_ETYPE (41 R101). -/
def execFbWrEtype (s : State) : Result := memWrite (offEtype s.cfg) 2 s.cfg.ethertype.toNat s

end Sys2Proof.Machine
end

