-- ==== Sys2Proof/Machine/HostCommands.lean ====
section
/-!
DEFINITION. The host commands (40_host_commands R90 to R94). Each meaning holds its own acceptance condition; a command
that is not accepted is rejected (60 R139), which is a next state.
-/
namespace Sys2Proof.Machine

/-- NOP (40 R91): accepted in every state, changes nothing. -/
def execNop (s : State) : Result := .next s

/-- VALIDATE (40 R92): the checks in the fixed order, the first failure raised as a ConfigurationError (60 R135). -/
def execValidate (s : State) : Result :=
  if s.acceptsValidate then
    match firstConfigError s.cfg with
    | some e => raiseConfig e s
    | none => .next { s with cfgValid := true }
  else reject s

/-- BUILD (40 R93): the five builder micro-operations in order and the counters, in one step. -/
def execBuild (s : State) : Result :=
  if s.acceptsBuild then
    andThen (execFbZero s) fun s1 =>
    andThen (execFbWrDmac s1) fun s2 =>
    andThen (execFbWrSmac s2) fun s3 =>
    andThen (execFbWrTag s3) fun s4 =>
    andThen (execFbWrEtype s4) fun s5 =>
    .next { s5 with seqId := 0#32, frameId := 0#32, built := true }
  else reject s

/-- RUN (40 R94). -/
def execRun (s : State) : Result :=
  if s.acceptsRun then .next { s with st := .arming, upc := 0#5 }
  else reject s

end Sys2Proof.Machine
end

