-- ==== Sys2Proof/Machine/TransmissionLoop.lean ====
section
/-!
DEFINITION. The transmission loop's own micro-operations (44_transmission_loop R125 to R128).
-/
namespace Sys2Proof.Machine

/-- SEND (44 R125): one hand-over of a copy of `FB[0 .. L-1]`; SINK's answer changes nothing but the event. -/
def execSend (s : State) : Result :=
  match s.fb.readBytes 0 (liveLen s.cfg) with
  | some bytes =>
    .next ((((s.sinkAnswered).emit (.tx bytes s.sinkAnswer (ns s.now))).showTx bytes).setUpc
      (sendNext s.params.seqIncPhase))
  | none => .fault .fbUnspecified

/-- BLOOP (44 R126). -/
def execBloop (s : State) : Result :=
  .next (s.setUpc (if s.burstOpen then bloopAgain s.params.seqIncPhase else bloopDone s.params.seqIncPhase))

/-- TCHK (44 R127). -/
def execTchk (s : State) : Result := .next (s.setUpc (if s.runComplete then 11#5 else 9#5))

/-- HALT (44 R128): the release of the link, then DONE. -/
def execHalt (s : State) : Result :=
  .next { ((s.emit (.release (ns s.now))).showRelease) with st := .done, upc := 11#5 }

end Sys2Proof.Machine
end

