-- ==== Sys2Proof/Machine/Dispatch.lean ====
section
/-! DEFINITION. The dispatch: one arm per operation of spec/opcode_table.json. -/
namespace Sys2Proof.Machine

-- What an operation does once it is issued; who issues it is the step's.
def exec (i : Instr) (s : State) : Host.Outcome State Fault Refusal :=
  match i with
  | .nop => Sys2Proof.Machine.execNop s
  | .validate => Sys2Proof.Machine.execValidate s
  | .build => Sys2Proof.Machine.execBuild s
  | .run => Sys2Proof.Machine.execRun s
  | .fbZero => Sys2Proof.Machine.execFbZero s
  | .fbWrDmac => Sys2Proof.Machine.execFbWrDmac s
  | .fbWrSmac => Sys2Proof.Machine.execFbWrSmac s
  | .fbWrTag => Sys2Proof.Machine.execFbWrTag s
  | .fbWrEtype => Sys2Proof.Machine.execFbWrEtype s
  | .arm => Sys2Proof.Machine.execArm s
  | .wait => Sys2Proof.Machine.execWait s
  | .advance => Sys2Proof.Machine.execAdvance s
  | .finc => Sys2Proof.Machine.execFinc s
  | .frst => Sys2Proof.Machine.execFrst s
  | .sinc => Sys2Proof.Machine.execSinc s
  | .send => Sys2Proof.Machine.execSend s
  | .bloop => Sys2Proof.Machine.execBloop s
  | .tchk => Sys2Proof.Machine.execTchk s
  | .halt => Sys2Proof.Machine.execHalt s

end Sys2Proof.Machine
end

