-- ==== Sys2Proof/Machine/Agents.lean ====
section
/-!
DEFINITION. The agents of 00_scope R7 and the moves they make (30_encoding R89): the host's accesses, the clock, the
transmit path's answers, reset, and the sequencer's step. Which agent moves next is the head of `agenda` (log 1).
-/
namespace Sys2Proof.Machine

/-- A format M word is executed: decoded, then given its meaning; a reserved opcode is refused (30 R83). -/
def runMicroWord (b : Byte) (s : State) : Result :=
  match decodeMicro b with
  | .ok i => exec i s
  | .error _ => .refused (.reservedMicroWord b)

/-- The word the sequencer fetches: `ROM[upc]` (44 R122, R123). -/
def fetchMicroWord (s : State) : Option Byte := romAt s.params.seqIncPhase s.upc

/-- The sequencer's step (44 R122). In IDLE, DONE and ERROR it has none, and nothing changes. At a value of `upc` that
holds no entry it is stuck (30 R83). -/
def seqStep (s : State) : Result :=
  if stRuns s.st then
    match fetchMicroWord s with
    | some b => runMicroWord b s
    | none => .fault (.sequencerStuck s.upc)
  else .next s

/-- A word written to `CMD` (40 R90): a word that encodes no host command is rejected; the acceptance of one that does
is in its meaning. -/
def writeCommand (w : Word) (s : State) : Result :=
  match decodeCommand w with
  | .ok i => exec i s
  | .error _ => reject s

/-- `HostWrite(a, w)` (40 R95). -/
def hostWrite (a : BitVec 12) (w : Word) (s : State) : Result :=
  match regOf a with
  | .cmd => writeCommand w s
  | r => .next (writeReg s r w)

/-- `HostRead(a)` (40 R96): the word appears on `h_rdata`, nothing else changes. -/
def hostRead (a : BitVec 12) (s : State) : Result :=
  match hostReadWord s a with
  | some w => .next { s with out := { s.out with hRdata := some w } }
  | none => .fault .fbUnspecified

/-- One move of one agent. -/
def perform (m : Move) (s : State) : Result :=
  match m with
  | .rst => .next s.doReset
  | .hostWrite a w => hostWrite a w s
  | .hostRead a => hostRead a s
  | .clock t => .next { s with now := t }
  | .sink o => .next { s with sinkQueue := s.sinkQueue ++ [o] }
  | .seq => seqStep s

/-- The next atomic step of the system: the word in the slot if there is one (log 10), else the first move of the
agenda, else a free step of CLOCK and then the sequencer's (log 2). -/
def nextMove (s : State) : Result :=
  match s.microSlot with
  | some b => runMicroWord b { s with microSlot := none }
  | none =>
    match s.agenda with
    | m :: rest => perform m { s with agenda := rest }
    | [] => seqStep s.clockTick

/-- The first place from `u` on at which a list of words holds `b`. -/
def findWord : List Byte → Byte → Nat → Option Nat
  | [], _, _ => none
  | c :: cs, b, u => if c = b then some u else findWord cs b (u + 1)

/-- A command word presented: the host writes it to `CMD` (0x000) as the very next move. -/
def presentCommand (s : State) (w : Word) : State := { s with agenda := .hostWrite 0x000#12 w :: s.agenda, microSlot := none }

/-- A format M word presented: where `ROM` holds it, the sequencer stands there, runs, and has the very next move;
elsewhere it goes into the slot. -/
def presentMicro (s : State) (b : Byte) : State :=
  match findWord (rom s.params.seqIncPhase) b 0 with
  | some u => { s.setUpc (BitVec.ofNat 5 u) with agenda := .seq :: s.agenda, microSlot := none }
  | none => { s with microSlot := some b }

/-- A control word presented for the very next step. -/
def presentWord (s : State) : Encoded → State
  | .command w => presentCommand s w
  | .micro b => presentMicro s b

end Sys2Proof.Machine
end

