-- ==== Sys2Proof/Machine/Step.lean ====
section
/-! DEFINITION. One step of the machine, and how a control word is presented for the very next step. -/
namespace Sys2Proof.Machine

/-- One atomic step of one agent (00_scope R7, 20_memory R69): it begins with no output driven (log 12). -/
def step (s : State) : Host.Outcome State Fault Refusal := nextMove s.beginStep

/-- `s` with the control word that spec/opcode_table.json numbers `w` presented where the next step takes it: a command
word as a host write to `CMD`, a micro-operation at its place in `ROM` or, for the builder's, in the slot (log 10). A
width that TXSCHED does not have (30 R84) presents nothing. -/
def State.withFetchWord (s : State) (nbits w : Nat) : State :=
  match tableWord nbits w with
  | some e => presentWord s e
  | none => s

end Sys2Proof.Machine
end

