-- ==== Sys2Proof/Safety.lean ====
section
/-!
DEFINITION. What the statements are said in: the frame as the spec lays it out, a run that is over and one gone wrong,
the invariants every step keeps, and how many micro-operations a bounded run still has before it.
-/
namespace Sys2Proof.Safety

open Sys2Proof.Machine

/-- Byte `i` of a MAC address, the first on the wire being byte 0: bits `47-8i : 40-8i` (30 R86). -/
def macByte (mac : BitVec 48) (i : Nat) : Byte := mac.extractLsb' (40 - 8 * i) 8

/-- The frame of 30 R71 (untagged) and R72 (tagged), field after field, for a configuration and the two counters. -/
def frameImage (p : Params) (c : Cfg) (seq frm : BitVec 32) : List Byte :=
  netBytes 6 c.destMac.toNat ++ netBytes 6 c.srcMac.toNat
    ++ (if c.vlanTagged then netBytes 2 p.tpid.toNat ++ netBytes 2 (tci c).toNat else [])
    ++ netBytes 2 c.ethertype.toNat ++ netBytes 4 seq.toNat ++ netBytes 4 frm.toNat
    ++ List.replicate (liveLen c - offPad c) 0#8

/-- A run is over (44 R132). -/
def RunOver (s : State) : Prop := s.st = .done

/-- A state gone wrong (60 R138): never final. -/
def GoneWrong (s : State) : Prop := s.errCode ≠ 0#8

/-- The bound of the run, if it has one (10 R24). -/
def bound (c : Cfg) : Option Nat := if c.nBurstsEn then some c.nBursts.toNat else none

/-- `seq_id` is below the bound, where there is one. -/
def belowBound (q : Nat) : Option Nat → Prop
  | none => True
  | some n => q < n

/-- `seq_id` does not pass the bound, where there is one (10 R17). -/
def withinBound (q : Nat) : Option Nat → Prop
  | none => True
  | some n => q ≤ n

/-- The values the counters have where the sequencer stands at `u` (43 R120; 92 annex to D9 for the other phase): `f`
frames of `b` handed over or about to be, `q` the sequence counter, `n` the bound. -/
def CountersAt (p : SeqIncPhase) (u f b q : Nat) (n : Option Nat) : Prop :=
  match p, u with
  | _, 0 | _, 1 | _, 2 => f = 0 ∧ q = 0
  | .afterBurst, 3 => f < b ∧ belowBound q n
  | .afterBurst, 4 | .afterBurst, 5 => 1 ≤ f ∧ f ≤ b ∧ belowBound q n
  | .afterBurst, 6 => f = b ∧ belowBound q n
  | .afterBurst, 7 => f = 0 ∧ belowBound q n
  | .beforeBurst, 3 => f = 0 ∧ belowBound q n
  | .beforeBurst, 4 => f < b ∧ withinBound q n
  | .beforeBurst, 5 | .beforeBurst, 6 => 1 ≤ f ∧ f ≤ b ∧ withinBound q n
  | .beforeBurst, 7 => f = b ∧ withinBound q n
  | _, 8 => f = 0 ∧ withinBound q n
  | _, 9 | _, 10 => f = 0 ∧ belowBound q n
  | _, 11 => f = 0 ∧ n = some q
  | _, _ => False

/-- What every invariant needs: nothing in the slot, a configuration that is valid only if it passes every check
(10 R24, R25), a buffer built only from a valid one, and a sequencer that runs only on a built buffer (70 R156). -/
structure Ordered (s : State) : Prop where
  slotEmpty : s.microSlot = none
  validIsChecked : s.cfgValid = true → firstConfigError s.cfg = none
  builtIsValid : s.built = true → s.cfgValid = true
  runsIsBuilt : stRuns s.st = true → s.built = true

/-- The buffer (10 R16; 20 R49, R51; 41 R102): in canonical form; empty of values until BUILD; from then on exactly the
frame of the configuration and the counters, with no value beyond the live part. -/
structure FrameInv (s : State) : Prop extends Ordered s where
  canonical : s.fb.wf = true
  unbuiltIsEmpty : s.built = false → s.fb = []
  builtIsFrame : s.built = true →
    ∀ a, s.fb.read a = (frameImage s.params s.cfg s.seqId s.frameId)[a]?

/-- The sequencer and the counters (10 R17, R23; 43 R115, R119, R120; 44 R124). -/
structure SequencerInv (s : State) : Prop extends Ordered s where
  idleAtZero : s.st = .idle → s.upc = 0#5 ∧ s.seqId = 0#32 ∧ s.frameId = 0#32
  runsInRom : stRuns s.st = true → stOf s.upc = some s.st
  runsCount : stRuns s.st = true →
    CountersAt s.params.seqIncPhase s.upc.toNat s.frameId.toNat s.cfg.burstSize.toNat s.seqId.toNat (bound s.cfg)
  doneAtHalt : s.st = .done →
    s.built = true ∧ s.upc = 11#5 ∧ s.frameId = 0#32 ∧ s.cfg.nBurstsEn = true ∧ s.seqId = s.cfg.nBursts
  errorStands : s.st = .error →
    s.upc = 0#5 ∨ (s.built = true ∧ (s.upc = 2#5 ∨ s.upc = 10#5) ∧ s.frameId = 0#32 ∧
      withinBound s.seqId.toNat (bound s.cfg))
  unbuiltIsZero : s.built = false → s.seqId = 0#32 ∧ s.frameId = 0#32 ∧ s.seqWrapped = false
  boundedNeverWraps : s.cfg.nBurstsEn = true → s.seqWrapped = false
  errorCode : s.errCode = 0#8 ↔ s.st ≠ .error

/-- The schedule (10 R18, R19; 42 R104, R110): the deadline is normalised and a multiple of the period, and once armed
the period is the configured one, which is not 0. -/
structure ScheduleInv (s : State) : Prop extends Ordered s where
  normal : normalised s.nextDeadline = true
  onGrid : s.periodNs.toNat ∣ ns s.nextDeadline
  armed : stRuns s.st = true → s.upc ≠ 0#5 → s.periodNs = s.cfg.cycleTimeNs ∧ s.periodNs ≠ 0#64

/-- The clock against the deadline (42 R111), with no early wake: after a WAIT the deadline has come; during a burst,
the deadline before the one already set has come. -/
structure TimingInv (s : State) : Prop where
  slotEmpty : s.microSlot = none
  noEarlyWake : s.params.spuriousWake = false
  runsInRom : stRuns s.st = true → stOf s.upc = some s.st
  afterWait : stRuns s.st = true → s.upc = 2#5 ∨ s.upc = 10#5 → ns s.nextDeadline ≤ ns s.now
  inBurst : s.st = .burstSending → ns s.nextDeadline ≤ ns s.now + s.periodNs.toNat

/-- The cost of one burst in micro-operations (44 R130). -/
def burstOps (b : Nat) : Nat := 3 * b + 3

/-- The micro-operations left after TCHK with `q` of `n` bursts closed: two to wait and a burst for each one still to
come, and HALT (44 R130). -/
def opsAfterCheck (b n q : Nat) : Nat := (n - q) * (2 + burstOps b) + 1

/-- The micro-operations a bounded run still executes from where the sequencer stands, in the default phase
(44 R130). -/
def opsLeftAt (u f b q n : Nat) : Nat :=
  match u with
  | 0 => 3 + burstOps b + opsAfterCheck b n (q + 1)
  | 1 => 2 + burstOps b + opsAfterCheck b n (q + 1)
  | 2 => 1 + burstOps b + opsAfterCheck b n (q + 1)
  | 3 => 3 * (b - f) + 3 + opsAfterCheck b n (q + 1)
  | 4 => 2 + 3 * (b - f) + 3 + opsAfterCheck b n (q + 1)
  | 5 => 1 + 3 * (b - f) + 3 + opsAfterCheck b n (q + 1)
  | 6 => 3 + opsAfterCheck b n (q + 1)
  | 7 => 2 + opsAfterCheck b n (q + 1)
  | 8 => 1 + opsAfterCheck b n q
  | 9 => 2 + burstOps b + opsAfterCheck b n (q + 1)
  | 10 => 1 + burstOps b + opsAfterCheck b n (q + 1)
  | _ => 1

/-- The micro-operations left of the run a state is in; none once it is over. -/
def opsLeft (s : State) : Nat :=
  if stRuns s.st then
    opsLeftAt s.upc.toNat s.frameId.toNat s.cfg.burstSize.toNat s.seqId.toNat s.cfg.nBursts.toNat
  else 0

end Sys2Proof.Safety
end

