-- ==== Sys2Proof/Certificates/Slice0/Obligations.lean ====
section
/-!
DEFINITION. The statements for the provers. A register, a flag or a special register that a statement does not name in
the update `{ s with … }` of a next state is unchanged: that is each statement's frame. Memory is spoken of through the
reading of one byte, `s.fb.read a`. Rules are those of spec/; "log n" is notes/assumptions/n.md. Where a
statement about a writer of the buffer takes in states whose live part ends before the field written (a frame_size
below 30, in no run), what it says there is the model's choice of log 23.
-/

open Sys2Proof Sys2Proof.Machine Sys2Proof.Safety

/-! ### Encoding -/

/-- 30 R80 to R82: decoding the word of an operation gives the operation back, for all nineteen. -/
def Obligations.DecodeOfEncode : Prop := ∀ i : Instr, decode (encode i) = .ok i

/-- 30 R83: over all 2^32 command words and all 2^8 format M words, the decoder accepts exactly the well-formed ones. -/
def Obligations.DecodeAcceptsExactlyWellFormed : Prop :=
  ∀ e : Encoded, (∃ i, decode e = .ok i) ↔ e.wellFormed = true

/-- 30 R81, R82: no two words encode the same operation: what decodes to `i` is the word of `i`. -/
def Obligations.DecodedWordIsTheEncoding : Prop :=
  ∀ (e : Encoded) (i : Instr), decode e = .ok i → encode i = e

/-- 30 R81, R82: a few words written out from the tables decode to the operation they stand for. -/
def Obligations.WordsOfTheTableDecode : Prop :=
  decodeCommand 0b00000000000000000000000000000001#32 = .ok .validate ∧
  decodeCommand 0b00000000000000000000000000000010#32 = .ok .build ∧
  decodeMicro 0b00010011#8 = .ok .fbWrTag ∧ decodeMicro 0b00100010#8 = .ok .advance ∧
  decodeMicro 0b00110010#8 = .ok .sinc ∧ decodeMicro 0b00111000#8 = .ok .send ∧
  decodeMicro 0b00111111#8 = .ok .halt

/-- 44 R123: the opcodes of the micro-program in the default phase, and `ST_OF` at each place; 12 to 31 hold nothing. -/
def Obligations.MicroProgramOfDefaultPhase : Prop :=
  (∀ u : BitVec 5, 12 ≤ u.toNat → romAt .afterBurst u = none ∧ stOf u = none) ∧
  (List.range 12).map (fun u => (rom .afterBurst)[u]?) =
    [some 0x20#8, some 0x21#8, some 0x22#8, some 0x30#8, some 0x38#8, some 0x39#8, some 0x31#8, some 0x32#8,
     some 0x3A#8, some 0x21#8, some 0x22#8, some 0x3F#8] ∧
  (List.range 12).map (fun u => stOf (BitVec.ofNat 5 u)) =
    [some .arming, some .arming, some .arming, some .burstSending, some .burstSending, some .burstSending,
     some .burstSending, some .burstSending, some .burstSending, some .cycleWaiting, some .cycleWaiting,
     some .burstSending]

/-! ### The step -/

/-- 44 R122: where the sequencer has the next move and runs, the word at `ROM[upc]` is decoded and the operation it
stands for is executed on the state with that move taken; where it does not run, it has no step and nothing changes.
With no move listed CLOCK first takes its free step (log 2). A word alone in the slot runs the same way (log 10). -/
def Obligations.StepRunsTheFetchedOperation : Prop :=
  (∀ (s : State) (rest : List Move) (b : Byte) (i : Instr), s.microSlot = none → s.agenda = .seq :: rest →
    stRuns s.st = true → romAt s.params.seqIncPhase s.upc = some b → decodeMicro b = .ok i →
    step s = exec i { s with agenda := rest, out := Ports.quiet }) ∧
  (∀ (s : State) (rest : List Move), s.microSlot = none → s.agenda = .seq :: rest → stRuns s.st = false →
    step s = .next { s with agenda := rest, out := Ports.quiet }) ∧
  (∀ (s : State) (b : Byte) (i : Instr), s.microSlot = none → s.agenda = [] →
    stRuns s.st = true → romAt s.params.seqIncPhase s.upc = some b → decodeMicro b = .ok i →
    step s = exec i { s with now := s.drawnTime, clockDraws := s.clockDraws + 1, out := Ports.quiet }) ∧
  (∀ (s : State) (b : Byte) (i : Instr), s.microSlot = some b → decodeMicro b = .ok i →
    step s = exec i { s with microSlot := none, out := Ports.quiet })

/-- 40 R90, its first line, and R95 for `CMD`: a word the host writes to `CMD` (bits 1:0 of the address ignored) that
encodes a host command runs that command, and one that does not is rejected. -/
def Obligations.StepRunsTheHostCommand : Prop :=
  ∀ (s : State) (a : BitVec 12) (w : Word) (rest : List Move), s.microSlot = none →
    s.agenda = .hostWrite a w :: rest → a.toNat < 4 →
    (∀ i, decodeCommand w = .ok i → step s = exec i { s with agenda := rest, out := Ports.quiet }) ∧
    (∀ e, decodeCommand w = .error e →
      step s = .next { s with agenda := rest, out := Ports.quiet, cmdRej := true })

/-- 30 R83 and the model's choice of log 9: a sequencer that runs with `upc` at 12 to 31 is stuck, a fault of the
model. -/
def Obligations.SequencerStuckOutsideRom : Prop :=
  ∀ (s : State) (rest : List Move), s.microSlot = none → s.agenda = .seq :: rest → stRuns s.st = true →
    12 ≤ s.upc.toNat → step s = .fault (.sequencerStuck s.upc)

/-! ### Host commands -/

/-- 40 R91. -/
def Obligations.NopChangesNothing : Prop := ∀ s : State, exec .nop s = .next s

/-- 40 R92 and 60 R135: with every check passing VALIDATE sets `cfg_valid`; else the first failing check, in the order
of the rule, gives the code, `st` becomes ERROR, `cfg_valid` is 0, and nothing else changes. -/
def Obligations.ValidateChecksInOrder : Prop :=
  ∀ s : State, s.st = .idle → s.cfgValid = false →
    exec .validate s = .next (
      if 0xFFFE < s.cfg.ethertype.toNat then { s with errCode := 0x01#8, st := .error, cfgValid := false }
      else if 0x0FFF < s.cfg.vlanId.toNat then { s with errCode := 0x02#8, st := .error, cfgValid := false }
      else if 7 < s.cfg.vlanPcp.toNat then { s with errCode := 0x03#8, st := .error, cfgValid := false }
      else if s.cfg.frameSize.toNat < 64 ∨ (if s.cfg.vlanTagged then 1522 else 1518) < s.cfg.frameSize.toNat then
        { s with errCode := 0x04#8, st := .error, cfgValid := false }
      else if s.cfg.burstSize = 0#32 then { s with errCode := 0x05#8, st := .error, cfgValid := false }
      else if s.cfg.nBurstsEn = true ∧ s.cfg.nBursts = 0#32 then
        { s with errCode := 0x06#8, st := .error, cfgValid := false }
      else if s.cfg.cycleTimeNs = 0#64 then { s with errCode := 0x07#8, st := .error, cfgValid := false }
      else { s with cfgValid := true })

/-- 40 R92, its passing case alone: on a configuration whose fields are all in their ranges (10 R24), VALIDATE sets
`cfg_valid` and changes nothing else. -/
def Obligations.ValidateAcceptsLegalConfig : Prop :=
  ∀ s : State, s.st = .idle → s.cfgValid = false →
    s.cfg.ethertype.toNat ≤ 0xFFFE → s.cfg.vlanId.toNat ≤ 0x0FFF → s.cfg.vlanPcp.toNat ≤ 7 →
    64 ≤ s.cfg.frameSize.toNat → s.cfg.frameSize.toNat ≤ (if s.cfg.vlanTagged then 1522 else 1518) →
    1 ≤ s.cfg.burstSize.toNat → (s.cfg.nBurstsEn = true → 1 ≤ s.cfg.nBursts.toNat) → 1 ≤ s.cfg.cycleTimeNs.toNat →
    exec .validate s = .next { s with cfgValid := true }

/-- 40 R93 with 30 R71, R72: from a configuration that passes the checks BUILD answers a next state whose buffer is, in
its live part, the frame of the configuration with both counters 0, whose bytes beyond are as they were, and in which
besides only `seq_id`, `frame_id` and `built` are written. -/
def Obligations.BuildMakesTheFrame : Prop :=
  ∀ s : State, s.st = .idle → s.cfgValid = true → s.built = false → firstConfigError s.cfg = none →
    ∃ t, exec .build s = .next t ∧
      t = { s with seqId := 0#32, frameId := 0#32, built := true, fb := t.fb } ∧
      (∀ a, a < liveLen s.cfg → t.fb.read a = (frameImage s.params s.cfg 0#32 0#32)[a]?) ∧
      (∀ a, liveLen s.cfg ≤ a → t.fb.read a = s.fb.read a)

/-- 40 R93: BUILD is the five builder micro-operations in the order of the rule, then the three register writes. -/
def Obligations.BuildIsItsMicroOperations : Prop :=
  ∀ (s s1 s2 s3 s4 s5 : State), s.st = .idle → s.cfgValid = true → s.built = false →
    exec .fbZero s = .next s1 → exec .fbWrDmac s1 = .next s2 → exec .fbWrSmac s2 = .next s3 →
    exec .fbWrTag s3 = .next s4 → exec .fbWrEtype s4 = .next s5 →
    exec .build s = .next { s5 with seqId := 0#32, frameId := 0#32, built := true }

/-- 40 R94. -/
def Obligations.RunEntersArming : Prop :=
  ∀ s : State, s.st = .idle → s.cfgValid = true → s.built = true →
    exec .run s = .next { s with st := .arming, upc := 0#5 }

/-- 60 R139 with 40 R90: each command outside the state that accepts it sets `cmd_rej` and changes nothing else. -/
def Obligations.CommandsOutOfOrderAreRejected : Prop :=
  ∀ s : State,
    (s.st ≠ .idle ∨ s.cfgValid = true → exec .validate s = .next { s with cmdRej := true }) ∧
    (s.st ≠ .idle ∨ s.cfgValid = false ∨ s.built = true → exec .build s = .next { s with cmdRej := true }) ∧
    (s.st ≠ .idle ∨ s.cfgValid = false ∨ s.built = false → exec .run s = .next { s with cmdRej := true })

/-! ### The frame builder -/

/-- 41 R97. -/
def Obligations.FbZeroClearsTheLivePart : Prop :=
  ∀ s : State, liveLen s.cfg ≤ 1518 →
    ∃ t, exec .fbZero s = .next t ∧ t = { s with fb := t.fb } ∧
      (∀ a, a < liveLen s.cfg → t.fb.read a = some 0#8) ∧
      (∀ a, liveLen s.cfg ≤ a → t.fb.read a = s.fb.read a)

/-- 41 R98, R99: the two address writers, each at its six offsets, byte `i` of the address at the `i`-th. -/
def Obligations.AddressWritersPlaceTheMacs : Prop :=
  (∀ s : State, ∃ t, exec .fbWrDmac s = .next t ∧ t = { s with fb := t.fb } ∧
    (∀ i, i < 6 → t.fb.read i = some (macByte s.cfg.destMac i)) ∧
    (∀ a, 6 ≤ a → t.fb.read a = s.fb.read a)) ∧
  (∀ s : State, ∃ t, exec .fbWrSmac s = .next t ∧ t = { s with fb := t.fb } ∧
    (∀ i, i < 6 → t.fb.read (6 + i) = some (macByte s.cfg.srcMac i)) ∧
    (∀ a, a < 6 ∨ 12 ≤ a → t.fb.read a = s.fb.read a))

/-- 41 R100 with 30 R74: tagged, the TPID at 12 and the tag control information at 14, with PCP in its top three bits,
then a zero bit, then the twelve bits of the VLAN id; untagged, nothing. -/
def Obligations.TagWriterPacksTheTag : Prop :=
  ∀ s : State,
    (s.cfg.vlanTagged = true → ∃ (t : State) (v : BitVec 16), exec .fbWrTag s = .next t ∧ t = { s with fb := t.fb } ∧
      v.toNat = (s.cfg.vlanPcp.toNat % 8) * 8192 + s.cfg.vlanId.toNat % 4096 ∧
      t.fb.read 12 = some (s.params.tpid.extractLsb' 8 8) ∧ t.fb.read 13 = some (s.params.tpid.extractLsb' 0 8) ∧
      t.fb.read 14 = some (v.extractLsb' 8 8) ∧ t.fb.read 15 = some (v.extractLsb' 0 8) ∧
      (∀ a, a < 12 ∨ 16 ≤ a → t.fb.read a = s.fb.read a)) ∧
    (s.cfg.vlanTagged = false → exec .fbWrTag s = .next s)

/-- 41 R101. -/
def Obligations.EthertypeWriterFollowsTheTag : Prop :=
  ∀ s : State, ∃ t, exec .fbWrEtype s = .next t ∧ t = { s with fb := t.fb } ∧
    t.fb.read (if s.cfg.vlanTagged then 16 else 12) = some (s.cfg.ethertype.extractLsb' 8 8) ∧
    t.fb.read (if s.cfg.vlanTagged then 17 else 13) = some (s.cfg.ethertype.extractLsb' 0 8) ∧
    (∀ a, (a < if s.cfg.vlanTagged then 16 else 12) ∨ (if s.cfg.vlanTagged then 18 else 14) ≤ a →
      t.fb.read a = s.fb.read a)

/-- 20 R57 with R55, R56, for every width: what `MemWrite` stores `MemRead` gives back, most significant byte at the
lowest offset, and no other byte changes. For offsets beyond the live part, and for other widths than those R57 names,
this is the model's choice (log 23). -/
def Obligations.MemReadAfterMemWrite : Prop :=
  ∀ (s : State) (a n v : Nat), a + n ≤ 1518 → v < 256 ^ n →
    ∃ t, memWrite a n v s = .next t ∧ t = { s with fb := t.fb } ∧ t.fb.memRead a n = some v ∧
      (∀ i, i < n → t.fb.read (a + i) = some (BitVec.ofNat 8 (v / 256 ^ (n - 1 - i)))) ∧
      (∀ c, c < a ∨ a + n ≤ c → t.fb.read c = s.fb.read c)

/-- 20 R58: a four-byte field read as two two-byte fields. -/
def Obligations.MixedWidthReads : Prop :=
  ∀ (m : Memory) (a v : Nat), m.memRead a 4 = some v →
    m.memRead a 2 = some (v / 65536) ∧ m.memRead (a + 2) 2 = some (v % 65536)

/-! ### The cycle scheduler -/

/-- 42 R104 with R113: for a period of at least 1, ARM sets the deadline `(n div P + 2) * P` as seconds and nanoseconds,
loads the period and goes to 1, or, where the seconds do not fit 64 bits, raises `F_ARM_OVF` and writes nothing else. -/
def Obligations.ArmSetsTheFirstDeadline : Prop :=
  ∀ (s : State) (d : Nat), 1 ≤ s.cfg.cycleTimeNs.toNat →
    d = (ns s.now / s.cfg.cycleTimeNs.toNat + 2) * s.cfg.cycleTimeNs.toNat →
    (d / 1000000000 < 2 ^ 64 → exec .arm s = .next { s with
      periodNs := s.cfg.cycleTimeNs
      nextDeadline := ⟨BitVec.ofNat 64 (d / 1000000000), BitVec.ofNat 32 (d % 1000000000)⟩
      upc := 1#5
      st := .arming }) ∧
    (2 ^ 64 ≤ d / 1000000000 → exec .arm s = .next { s with errCode := 0x20#8, st := .error })

/-- 42 R105: the first deadline lies more than one period and at most two periods ahead, and on the clock's grid. -/
def Obligations.FirstDeadlineBounds : Prop :=
  ∀ s t : State, 1 ≤ s.cfg.cycleTimeNs.toNat → exec .arm s = .next t → t.st ≠ .error →
    ns s.now + s.cfg.cycleTimeNs.toNat < ns t.nextDeadline ∧
    ns t.nextDeadline ≤ ns s.now + 2 * s.cfg.cycleTimeNs.toNat ∧
    s.cfg.cycleTimeNs.toNat ∣ ns t.nextDeadline

/-- 42 R106, R107: at its two places WAIT goes on exactly when the deadline has come (equality included) or early wake
is configured; else the sequencer is held. That a held WAIT is a next state in which nothing changes is the model's
reading of R106's "has no step" (log 11). -/
def Obligations.WaitHoldsUntilTheDeadline : Prop :=
  ∀ s : State, (s.upc = 1#5 ∧ s.st = .arming) ∨ (s.upc = 9#5 ∧ s.st = .cycleWaiting) →
    (ns s.nextDeadline ≤ ns s.now ∨ s.params.spuriousWake = true →
      exec .wait s = .next { s with upc := s.upc + 1#5 }) ∧
    (ns s.now < ns s.nextDeadline → s.params.spuriousWake = false → exec .wait s = .next s)

/-- 42 R108 with R113: ADVANCE adds the period to the deadline and normalises it completely, whatever the time is, or,
where the seconds do not fit 64 bits, raises `F_ADVANCE_OVF` and writes nothing else. -/
def Obligations.AdvanceAddsOnePeriod : Prop :=
  ∀ (s : State) (d : Nat), d = ns s.nextDeadline + s.periodNs.toNat →
    (d / 1000000000 < 2 ^ 64 → exec .advance s = .next { s with
      nextDeadline := ⟨BitVec.ofNat 64 (d / 1000000000), BitVec.ofNat 32 (d % 1000000000)⟩
      upc := 3#5
      st := .burstSending }) ∧
    (2 ^ 64 ≤ d / 1000000000 → exec .advance s = .next { s with errCode := 0x21#8, st := .error })

/-- 42 R110: no drift: the deadline ADVANCE leaves is exactly one period after the one it found, as a number of
nanoseconds, and is normalised. -/
def Obligations.AdvanceNeverDrifts : Prop :=
  ∀ s t : State, exec .advance s = .next t → t.st ≠ .error →
    ns t.nextDeadline = ns s.nextDeadline + s.periodNs.toNat ∧ normalised t.nextDeadline = true

/-! ### The counter engine -/

/-- 43 R114 with R115: FINC adds 1 to `frame_id` (modulo 2^32 for totality, log 18) and rewrites its field, most significant
byte first; nothing else changes but `upc`, which goes to 4 (5 in the other phase). -/
def Obligations.FincCountsAndRewrites : Prop :=
  ∀ s : State, ∃ t, exec .finc s = .next t ∧
    t = { s with
      frameId := s.frameId + 1#32
      fb := t.fb
      upc := if s.params.seqIncPhase = .afterBurst then 4#5 else 5#5
      st := .burstSending } ∧
    (∀ i, i < 4 → t.fb.read (offFrm s.cfg + i) = some ((s.frameId + 1#32).extractLsb' (24 - 8 * i) 8)) ∧
    (∀ a, a < offFrm s.cfg ∨ offFrm s.cfg + 4 ≤ a → t.fb.read a = s.fb.read a)

/-- 43 R116; the place in the other phase is from 92, the annex to D9. -/
def Obligations.FrstClearsAndRewrites : Prop :=
  ∀ s : State, ∃ t, exec .frst s = .next t ∧
    t = { s with
      frameId := 0#32
      fb := t.fb
      upc := if s.params.seqIncPhase = .afterBurst then 7#5 else 8#5
      st := .burstSending } ∧
    (∀ i, i < 4 → t.fb.read (offFrm s.cfg + i) = some 0#8) ∧
    (∀ a, a < offFrm s.cfg ∨ offFrm s.cfg + 4 ≤ a → t.fb.read a = s.fb.read a)

/-- 43 R117, R118: SINC adds 1 to `seq_id` modulo 2^32, sets the sticky flag at the wrap, and rewrites its field. -/
def Obligations.SincCountsAndRewrites : Prop :=
  ∀ s : State, ∃ t, exec .sinc s = .next t ∧
    t = { s with
      seqId := s.seqId + 1#32
      seqWrapped := if s.seqId = 0xFFFFFFFF#32 then true else s.seqWrapped
      fb := t.fb
      upc := if s.params.seqIncPhase = .afterBurst then 8#5 else 4#5
      st := .burstSending } ∧
    t.seqId.toNat = (s.seqId.toNat + 1) % 2 ^ 32 ∧
    (∀ i, i < 4 → t.fb.read (offSeq s.cfg + i) = some ((s.seqId + 1#32).extractLsb' (24 - 8 * i) 8)) ∧
    (∀ a, a < offSeq s.cfg ∨ offSeq s.cfg + 4 ≤ a → t.fb.read a = s.fb.read a)

/-- 00 R11, the offsets of the counter fields and of the padding: 14, 18, 22 untagged and 18, 22, 26 tagged. -/
def Obligations.FieldOffsets : Prop :=
  ∀ c : Cfg,
    (c.vlanTagged = false → offEtype c = 12 ∧ offSeq c = 14 ∧ offFrm c = 18 ∧ offPad c = 22) ∧
    (c.vlanTagged = true → offEtype c = 16 ∧ offSeq c = 18 ∧ offFrm c = 22 ∧ offPad c = 26)

/-! ### The transmission loop -/

/-- 44 R125: where every byte of the live part has a value, SEND hands over exactly those bytes with the first answer
SINK has lined up, or a free one (log 3), and writes nothing but `upc` (and the model's trace, ports and SINK's queue,
logs 12 and 13). -/
def Obligations.SendHandsOverTheBuffer : Prop :=
  ∀ s : State, (∀ a, a < liveLen s.cfg → (s.fb.read a).isSome = true) →
    ∃ bytes : List Byte, bytes.length = liveLen s.cfg ∧ (∀ a, a < liveLen s.cfg → bytes[a]? = s.fb.read a) ∧
      exec .send s = .next { s with
        trace := s.trace ++ [.tx bytes (s.sinkQueue.headD (Config.sinkAnswer s.sinkDraws)) (ns s.now)]
        sinkQueue := s.sinkQueue.tail
        sinkDraws := if s.sinkQueue = [] then s.sinkDraws + 1 else s.sinkDraws
        out := { s.out with txReq := true, txLen := BitVec.ofNat 11 (liveLen s.cfg), txData := bytes }
        upc := if s.params.seqIncPhase = .afterBurst then 5#5 else 6#5
        st := .burstSending }

/-- 60 R137, 44 R125: SINK's answer changes nothing: two runs of SEND that differ in SINK's answers alone end in states
that differ in SINK's answers and in the recorded outcome alone. -/
def Obligations.SendOutcomeChangesNothing : Prop :=
  ∀ (s t : State) (queue : List TxAnswer) (draws : Nat), exec .send s = .next t →
    ∃ (bytes : List Byte) (o1 o2 : TxAnswer) (t2 : State),
      exec .send { s with sinkQueue := queue, sinkDraws := draws } = .next t2 ∧
      t.trace = s.trace ++ [.tx bytes o1 (ns s.now)] ∧ t2.trace = s.trace ++ [.tx bytes o2 (ns s.now)] ∧
      t2 = { t with sinkQueue := t2.sinkQueue, sinkDraws := t2.sinkDraws, trace := t2.trace }

/-- The model's choice of log 5, after 20 R51: SEND stops where a byte of the live part has no value. -/
def Obligations.SendStopsOnUnwrittenBytes : Prop :=
  ∀ (s : State) (a : Nat), a < liveLen s.cfg → s.fb.read a = none → exec .send s = .fault .fbUnspecified

/-- 44 R126. -/
def Obligations.BloopLoopsWhileFramesRemain : Prop :=
  ∀ s : State,
    (s.frameId.toNat < s.cfg.burstSize.toNat → exec .bloop s = .next { s with
      upc := if s.params.seqIncPhase = .afterBurst then 3#5 else 4#5
      st := .burstSending }) ∧
    (s.cfg.burstSize.toNat ≤ s.frameId.toNat → exec .bloop s = .next { s with
      upc := if s.params.seqIncPhase = .afterBurst then 6#5 else 7#5
      st := .burstSending })

/-- 44 R127. -/
def Obligations.TchkEndsTheBoundedRun : Prop :=
  ∀ s : State,
    (s.cfg.nBurstsEn = true ∧ s.seqId = s.cfg.nBursts →
      exec .tchk s = .next { s with upc := 11#5, st := .burstSending }) ∧
    (s.cfg.nBurstsEn = false ∨ s.seqId ≠ s.cfg.nBursts →
      exec .tchk s = .next { s with upc := 9#5, st := .cycleWaiting })

/-- 44 R128: HALT emits the release, pulses `tx_release`, and ends in DONE. -/
def Obligations.HaltReleasesAndEnds : Prop :=
  ∀ s : State, exec .halt s = .next { s with
    trace := s.trace ++ [.release (ns s.now)]
    out := { s.out with txRelease := true }
    st := .done
    upc := 11#5 }

/-! ### The host register file -/

/-- 40 R95, 10 R25 and R38 to R44: a host write outside `CMD` is taken exactly while unlocked and at a `CMD`-free
configuration address: then the register reads back the word less its reserved bits and every other `CFG_*` register
reads as before; else the configuration is unchanged. No other state is written and no flag is set. -/
def Obligations.HostWriteReachesOnlyOpenConfig : Prop :=
  ∀ (s : State) (a : BitVec 12) (w : Word) (rest : List Move), s.microSlot = none →
    s.agenda = .hostWrite a w :: rest → 4 ≤ a.toNat →
    ∃ t, step s = .next t ∧ t = { s with agenda := rest, out := Ports.quiet, cfg := t.cfg } ∧
      (¬ (s.st = .idle ∧ s.cfgValid = false ∧ 0x010 ≤ a.toNat ∧ a.toNat ≤ 0x03F) → t.cfg = s.cfg) ∧
      (s.st = .idle → s.cfgValid = false → 0x010 ≤ a.toNat → a.toNat ≤ 0x03F →
        (∀ mask, [0xFFFF#32, 0xFFFFFF#32, 0x3#32, 0xFFFF#32, 0xFFFFFFFF#32, 0xFFFFFFFF#32, 0xFFFFFFFF#32, 0xFFFFFFFF#32,
            0xFFFFFFFF#32, 0xFFFF#32, 0xFFFFFFFF#32, 0xFFFF#32][a.toNat / 4 - 4]? = some mask →
          hostReadWord t a = some (w &&& mask)) ∧
        (∀ c : BitVec 12, 0x010 ≤ c.toNat → c.toNat ≤ 0x03F → c.toNat / 4 ≠ a.toNat / 4 →
          hostReadWord t c = hostReadWord s c))

/-- 10 R38 to R44, R86: what the `CFG_*` registers read, as numbers. -/
def Obligations.ConfigRegistersRead : Prop :=
  ∀ s : State,
    (hostReadWord s 0x010#12).map BitVec.toNat = some s.cfg.ethertype.toNat ∧
    (hostReadWord s 0x014#12).map BitVec.toNat = some (s.cfg.vlanPcp.toNat * 65536 + s.cfg.vlanId.toNat) ∧
    (hostReadWord s 0x018#12).map BitVec.toNat = some (s.cfg.nBurstsEn.toNat * 2 + s.cfg.vlanTagged.toNat) ∧
    (hostReadWord s 0x01C#12).map BitVec.toNat = some s.cfg.frameSize.toNat ∧
    (hostReadWord s 0x020#12).map BitVec.toNat = some s.cfg.burstSize.toNat ∧
    (hostReadWord s 0x024#12).map BitVec.toNat = some s.cfg.nBursts.toNat ∧
    (hostReadWord s 0x028#12).map BitVec.toNat = some (s.cfg.cycleTimeNs.toNat % 2 ^ 32) ∧
    (hostReadWord s 0x02C#12).map BitVec.toNat = some (s.cfg.cycleTimeNs.toNat / 2 ^ 32) ∧
    (hostReadWord s 0x030#12).map BitVec.toNat = some (s.cfg.destMac.toNat % 2 ^ 32) ∧
    (hostReadWord s 0x034#12).map BitVec.toNat = some (s.cfg.destMac.toNat / 2 ^ 32) ∧
    (hostReadWord s 0x038#12).map BitVec.toNat = some (s.cfg.srcMac.toNat % 2 ^ 32) ∧
    (hostReadWord s 0x03C#12).map BitVec.toNat = some (s.cfg.srcMac.toNat / 2 ^ 32)

/-- 10 R35 to R37, R45: what `STATUS`, `ERR`, `UPC`, the read-only mirrors and `FB_LEN` read, as numbers. -/
def Obligations.StatusRegistersRead : Prop :=
  ∀ s : State,
    (hostReadWord s 0x004#12).map BitVec.toNat = some (
      (match s.st with
        | .idle => 0 | .arming => 1 | .burstSending => 2 | .cycleWaiting => 3 | .done => 4 | .error => 5)
      + 8 * s.cfgValid.toNat + 16 * s.built.toNat + 32 * s.seqWrapped.toNat + 64 * s.cmdRej.toNat
      + 128 * (decide (s.st = .done)).toNat + 256 * (decide (s.st = .error)).toNat) ∧
    (hostReadWord s 0x008#12).map BitVec.toNat = some s.errCode.toNat ∧
    (hostReadWord s 0x00C#12).map BitVec.toNat = some s.upc.toNat ∧
    (hostReadWord s 0x040#12).map BitVec.toNat = some s.seqId.toNat ∧
    (hostReadWord s 0x044#12).map BitVec.toNat = some s.frameId.toNat ∧
    (hostReadWord s 0x048#12).map BitVec.toNat = some (s.nextDeadline.sec.toNat % 2 ^ 32) ∧
    (hostReadWord s 0x04C#12).map BitVec.toNat = some (s.nextDeadline.sec.toNat / 2 ^ 32) ∧
    (hostReadWord s 0x050#12).map BitVec.toNat = some s.nextDeadline.nsec.toNat ∧
    (hostReadWord s 0x054#12).map BitVec.toNat = some (s.periodNs.toNat % 2 ^ 32) ∧
    (hostReadWord s 0x058#12).map BitVec.toNat = some (s.periodNs.toNat / 2 ^ 32) ∧
    (hostReadWord s 0x05C#12).map BitVec.toNat = some (if s.cfgValid then liveLen s.cfg % 2 ^ 11 else 0)

/-- 10 R33, R34 and 40 R96: bits 1:0 of the address are ignored, and `CMD` and the reserved addresses read 0. -/
def Obligations.ReservedAddressesReadZero : Prop :=
  (∀ (s : State) (a c : BitVec 12), a.toNat / 4 = c.toNat / 4 → hostReadWord s a = hostReadWord s c) ∧
  (∀ (s : State) (a : BitVec 12),
    a.toNat < 4 ∨ (0x060 ≤ a.toNat ∧ a.toNat < 0x800) ∨ 0xDF0 ≤ a.toNat → hostReadWord s a = some 0#32)

/-- 20 R62: the read window, open on a built buffer while the sequencer does not run, gives four bytes of the live part
in network byte order, 0 for offsets beyond it; closed, it reads 0. It speaks of bytes that have a value (log 5). -/
def Obligations.ReadWindowShowsTheBuffer : Prop :=
  ∀ (s : State) (k : Nat), k ≤ 379 →
    (s.built = true → s.st = .idle ∨ s.st = .done ∨ s.st = .error →
      ∀ b0 b1 b2 b3 : Byte,
        (if 4 * k < liveLen s.cfg then s.fb.read (4 * k) = some b0 else b0 = 0#8) →
        (if 4 * k + 1 < liveLen s.cfg then s.fb.read (4 * k + 1) = some b1 else b1 = 0#8) →
        (if 4 * k + 2 < liveLen s.cfg then s.fb.read (4 * k + 2) = some b2 else b2 = 0#8) →
        (if 4 * k + 3 < liveLen s.cfg then s.fb.read (4 * k + 3) = some b3 else b3 = 0#8) →
        hostReadWord s (BitVec.ofNat 12 (0x800 + 4 * k)) = some (b0 ++ b1 ++ b2 ++ b3)) ∧
    (s.built = false ∨ s.st = .arming ∨ s.st = .burstSending ∨ s.st = .cycleWaiting →
      hostReadWord s (BitVec.ofNat 12 (0x800 + 4 * k)) = some 0#32)

/-- 40 R96, 20 R61: a host read shows the word on `h_rdata` and changes no state. -/
def Obligations.HostReadChangesNothing : Prop :=
  ∀ (s : State) (a : BitVec 12) (w : Word) (rest : List Move), s.microSlot = none →
    s.agenda = .hostRead a :: rest → hostReadWord s a = some w →
    step s = .next { s with agenda := rest, out := { Ports.quiet with hRdata := some w } }

/-! ### Reset -/

/-- 10 R47: the state of the block after reset, and no byte of the buffer with a value (20 R51; the model's
reading, log 5). -/
def Obligations.ResetLeavesZero : Prop :=
  State.reset.st = .idle ∧ State.reset.upc = 0#5 ∧ State.reset.seqId = 0#32 ∧ State.reset.frameId = 0#32 ∧
  State.reset.nextDeadline = ⟨0#64, 0#32⟩ ∧ State.reset.periodNs = 0#64 ∧
  State.reset.cfg = { ethertype := 0#16, vlanTagged := false, vlanId := 0#16, vlanPcp := 0#8, frameSize := 0#16,
                      burstSize := 0#32, nBurstsEn := false, nBursts := 0#32, cycleTimeNs := 0#64,
                      destMac := 0#48, srcMac := 0#48 } ∧
  State.reset.cfgValid = false ∧ State.reset.built = false ∧ State.reset.seqWrapped = false ∧
  State.reset.cmdRej = false ∧ State.reset.errCode = 0#8 ∧
  State.reset.out.txReq = false ∧ State.reset.out.txRelease = false ∧ State.reset.done = false ∧
  State.reset.error = false ∧ ∀ a, State.reset.fb.read a = none

/-- 70 R153, R154: whatever the block was doing, a reset gives every register its reset value; what belongs to the
environment and the events already emitted stay, and none is added. That no byte of the buffer keeps a value is the
model's reading of 20 R51 (log 5). -/
def Obligations.ResetMoveRestoresResetState : Prop :=
  ∀ (s : State) (rest : List Move), s.microSlot = none → s.agenda = .rst :: rest →
    step s = .next { State.reset with
      agenda := rest
      now := s.now
      params := s.params
      sinkQueue := s.sinkQueue
      sinkDraws := s.sinkDraws
      clockDraws := s.clockDraws
      trace := s.trace }

/-- All four invariants hold after reset; `TimingInv` by the default of SPURIOUS_WAKE (log 4). -/
def Obligations.InvariantsHoldAtReset : Prop :=
  FrameInv State.reset ∧ SequencerInv State.reset ∧ ScheduleInv State.reset ∧ TimingInv State.reset

/-! ### Whole-machine rules -/

/-- 60 R142: DONE and ERROR are left only by reset: any other step leaves every register of the block as it is, but for
`cmd_rej`. -/
def Obligations.DoneAndErrorAreTerminal : Prop :=
  ∀ s t : State, s.microSlot = none → s.st = .done ∨ s.st = .error → s.agenda.head? ≠ some .rst →
    step s = .next t →
    t = { s with cmdRej := t.cmdRej, now := t.now, out := t.out, agenda := s.agenda.tail, sinkQueue := t.sinkQueue,
                 clockDraws := t.clockDraws }

/-- 20 R69: while the sequencer runs, a move of HOST, CLOCK or SINK other than reset changes no register of the block
but `cmd_rej`. -/
def Obligations.HostCannotDisturbTheRun : Prop :=
  ∀ (s t : State) (m : Move) (rest : List Move), s.microSlot = none → stRuns s.st = true →
    s.agenda = m :: rest → m ≠ .rst → m ≠ .seq → step s = .next t →
    t = { s with cmdRej := t.cmdRej, now := t.now, out := t.out, agenda := rest, sinkQueue := t.sinkQueue }

/-- 10 R25, R26, R27, R28, R29: until reset, a valid configuration stays as it is and stays valid, and `built`,
`seq_wrapped` and `cmd_rej` stay set. -/
def Obligations.LocksAndStickyFlagsLast : Prop :=
  ∀ s t : State, s.agenda.head? ≠ some .rst → step s = .next t →
    (s.cfgValid = true → t.cfgValid = true ∧ t.cfg = s.cfg) ∧ (s.built = true → t.built = true) ∧
    (s.seqWrapped = true → t.seqWrapped = true) ∧ (s.cmdRej = true → t.cmdRej = true)

/-- 10 R14, R15, R18, R19, 20 R50: during a run each register and the buffer are written only by the micro-operations
that own them. -/
def Obligations.OnlyOwnersWriteDuringARun : Prop :=
  ∀ s t : State, s.microSlot = none → stRuns s.st = true → s.agenda.head? ≠ some .rst → step s = .next t →
    (t.nextDeadline ≠ s.nextDeadline → romAt s.params.seqIncPhase s.upc = some 0x20#8 ∨
      romAt s.params.seqIncPhase s.upc = some 0x22#8) ∧
    (t.periodNs ≠ s.periodNs → romAt s.params.seqIncPhase s.upc = some 0x20#8) ∧
    (t.frameId ≠ s.frameId → romAt s.params.seqIncPhase s.upc = some 0x30#8 ∨
      romAt s.params.seqIncPhase s.upc = some 0x31#8) ∧
    (t.seqId ≠ s.seqId → romAt s.params.seqIncPhase s.upc = some 0x32#8) ∧
    (t.fb ≠ s.fb → romAt s.params.seqIncPhase s.upc = some 0x30#8 ∨
      romAt s.params.seqIncPhase s.upc = some 0x31#8 ∨ romAt s.params.seqIncPhase s.upc = some 0x32#8)

/-- 10 R31: only ARM and WAIT read `now`: for every other operation two times give the same next state, but for `now`
itself and the time recorded in the one event that SEND or HALT emits, whose bytes and outcome are the same for both. -/
def Obligations.OnlyArmAndWaitReadTheClock : Prop :=
  ∀ (i : Instr) (s t : State) (time : Timestamp), i ≠ .arm → i ≠ .wait → exec i s = .next t →
    ∃ t2, exec i { s with now := time } = .next t2 ∧ t2 = { t with now := time, trace := t2.trace } ∧
      (i ≠ .send → i ≠ .halt → t2.trace = t.trace) ∧
      (i = .send → ∃ (bytes : List Byte) (o : TxAnswer), t.trace = s.trace ++ [.tx bytes o (ns s.now)] ∧
        t2.trace = s.trace ++ [.tx bytes o (ns time)]) ∧
      (i = .halt → t.trace = s.trace ++ [.release (ns s.now)] ∧ t2.trace = s.trace ++ [.release (ns time)])

/-- No step stops: from a state in which the buffer and the sequencer are as their invariants say, every step answers a
next state, whatever move comes next. The three stops this rules out are the model's (logs 5, 6, 9). -/
def Obligations.NoStepStops : Prop :=
  ∀ s : State, FrameInv s → SequencerInv s → ∃ t, step s = .next t

/-- 10 R16: in a state that meets the buffer's invariant, the counter fields of a built buffer hold the counters. -/
def Obligations.CountersCohereWithTheBuffer : Prop :=
  ∀ s : State, FrameInv s → s.built = true →
    s.fb.memRead (offSeq s.cfg) 4 = some s.seqId.toNat ∧ s.fb.memRead (offFrm s.cfg) 4 = some s.frameId.toNat

/-- 42 R111: with no early wake, a frame handed over in a step carries a time not before the deadline its burst waited
for, which is one period before the deadline already set. -/
def Obligations.NoFrameBeforeItsDeadline : Prop :=
  ∀ (s t : State) (bytes : List Byte) (o : TxAnswer) (time : Nat), TimingInv s → step s = .next t →
    t.trace = s.trace ++ [.tx bytes o time] → ns t.nextDeadline ≤ time + t.periodNs.toNat

/-- 44 R130: in the default phase, every micro-operation of a bounded run that is executed (a held WAIT is not, and a
fault is none) brings the run exactly one micro-operation nearer its end. -/
def Obligations.EachMicroOperationCountsDown : Prop :=
  ∀ (s t : State) (rest : List Move), SequencerInv s → s.params.seqIncPhase = .afterBurst →
    s.cfg.nBurstsEn = true → stRuns s.st = true → s.agenda = .seq :: rest →
    (s.upc = 1#5 ∨ s.upc = 9#5 → ns s.nextDeadline ≤ ns s.now ∨ s.params.spuriousWake = true) →
    step s = .next t → t.st ≠ .error → opsLeft t + 1 = opsLeft s ∧ (opsLeft t = 0 ↔ t.st = .done)

/-- 44 R130: at RUN a bounded run has `3 + n(3b + 3) + 2(n - 1) + 1` micro-operations before it. -/
def Obligations.BoundedRunLength : Prop :=
  ∀ s t : State, SequencerInv s → s.cfg.nBurstsEn = true → s.built = true → s.cfgValid = true → s.st = .idle →
    exec .run s = .next t →
    opsLeft t = 3 + s.cfg.nBursts.toNat * (3 * s.cfg.burstSize.toNat + 3) + 2 * (s.cfg.nBursts.toNat - 1) + 1

/-! ### Invariants every step keeps -/

/-- 10 R16, 20 R49, R51, 41 R102: from every state whose buffer is in canonical form, empty of values until BUILD and
exactly the frame of the configuration and the counters from then on, every step leaves such a state. That an unbuilt
buffer has no values is the model's choice of log 5. -/
def Obligations.StepKeepsTheFrame : Prop :=
  ∀ s t : State, FrameInv s → step s = .next t → FrameInv t

/-- 10 R17, R23, 43 R115, R119, R120, 44 R124: every step keeps the relation of `st`, `upc`, the counters, their bounds,
the wrap flag and the error code. -/
def Obligations.StepKeepsTheSequencer : Prop :=
  ∀ s t : State, SequencerInv s → step s = .next t → SequencerInv t

/-- 10 R18, R19, 42 R104, R110: every step keeps the deadline normalised and on the grid of the period, and the period
the configured one. -/
def Obligations.StepKeepsTheSchedule : Prop :=
  ∀ s t : State, ScheduleInv s → step s = .next t → ScheduleInv t

/-- 42 R111, R103: with no early wake and a clock that does not go back in the step, every step keeps the deadline of
the burst being sent behind the clock. -/
def Obligations.StepKeepsTheTiming : Prop :=
  ∀ s t : State, TimingInv s → step s = .next t → ns s.now ≤ ns t.now → TimingInv t
end

