-- ==== Sys2Proof/Laws/Memory.lean ====
section
/-!
SUPPORT. The laws of the frame buffer: what a read gives after a write, and that every operation keeps the canonical
form.
-/
namespace Sys2Proof.Machine

/-! ### Reading after writing -/

@[simp] theorem Memory.read_nil (a : Nat) : Memory.read [] a = none := rfl

theorem Memory.read_cons (b : Nat) (v : Byte) (m : Memory) (a : Nat) :
    Memory.read ((b, v) :: m) a = if a = b then some v else m.read a := rfl

/-- Says once what a read gives after one byte was written. -/
theorem Memory.read_write (m : Memory) (a c : Nat) (v : Byte) :
    (m.write a v).read c = if c = a then some v else m.read c := by
  induction m with
  | nil => simp [Memory.write, Memory.read]
  | cons hd m ih =>
    obtain ⟨b, w⟩ := hd
    unfold Memory.write
    split
    · simp [Memory.read]
    · split
      · subst_vars; simp only [Memory.read]; split <;> simp_all
      · simp only [Memory.read, ih]; grind

/-- Says once what a read gives after consecutive bytes were written. -/
theorem Memory.read_writeBytes (m : Memory) (a c : Nat) (bs : List Byte) :
    (m.writeBytes a bs).read c = if a ≤ c ∧ c < a + bs.length then bs[c - a]? else m.read c := by
  induction bs generalizing m a with
  | nil => simp [Memory.writeBytes]
  | cons b bs ih =>
    simp only [Memory.writeBytes, ih, Memory.read_write, List.length_cons]
    by_cases h : c = a
    · subst h; simp
    · by_cases h1 : a + 1 ≤ c ∧ c < a + 1 + bs.length
      · have h2 : c - a = (c - (a + 1)) + 1 := by omega
        rw [if_pos h1, if_pos (by omega), h2, List.getElem?_cons_succ]
      · rw [if_neg h1, if_neg h, if_neg (by omega)]

theorem zeroCells_read (a n c : Nat) :
    Memory.read (zeroCells a n) c = if a ≤ c ∧ c < a + n then some 0#8 else none := by
  induction n generalizing a with
  | zero => simp [zeroCells]
  | succ n ih => simp only [zeroCells, Memory.read, ih]; grind

theorem Memory.read_append (m m' : Memory) (a : Nat) :
    Memory.read (m ++ m') a = (m.read a).or (m'.read a) := by
  induction m with
  | nil => simp
  | cons hd m ih => obtain ⟨b, w⟩ := hd; simp only [List.cons_append, Memory.read, ih]; split <;> simp

theorem Memory.read_filter (m : Memory) (n a : Nat) :
    Memory.read (m.filter (fun c => decide (n ≤ c.1))) a = if n ≤ a then m.read a else none := by
  induction m with
  | nil => simp
  | cons hd m ih =>
    obtain ⟨b, w⟩ := hd
    simp only [List.filter_cons]
    split <;> simp only [Memory.read, ih] <;> grind

/-- Says once what a read gives after the zero fill. -/
theorem Memory.read_zeroFill (m : Memory) (n a : Nat) :
    (m.zeroFill n).read a = if a < n then some 0#8 else m.read a := by
  simp only [Memory.zeroFill, Memory.read_append, zeroCells_read, Memory.read_filter]
  by_cases h : a < n
  · simp [h]
  · simp [h]

/-- Consecutive bytes are read exactly where each has a value. -/
theorem Memory.readBytes_eq_some (m : Memory) (a n : Nat) (bs : List Byte) :
    m.readBytes a n = some bs ↔ bs.length = n ∧ ∀ i, i < n → m.read (a + i) = bs[i]? := by
  induction n generalizing a bs with
  | zero => simp [Memory.readBytes]
  | succ n ih =>
    unfold Memory.readBytes
    constructor
    · intro h
      split at h
      · rename_i b bs' hb hbs
        cases h
        obtain ⟨hl, hr⟩ := (ih (a + 1) bs').1 hbs
        refine ⟨by simp [hl], ?_⟩
        intro i hi
        cases i with
        | zero => simpa using hb
        | succ i =>
          have := hr i (by omega)
          rw [List.getElem?_cons_succ, ← this]; congr 1; omega
      · cases h
    · rintro ⟨hl, hr⟩
      cases bs with
      | nil => simp at hl
      | cons b bs =>
        have h0 : m.read a = some b := by simpa using hr 0 (by omega)
        have h1 : m.readBytes (a + 1) n = some bs := by
          refine (ih (a + 1) bs).2 ⟨by simpa using hl, ?_⟩
          intro i hi
          have := hr (i + 1) (by omega)
          rw [List.getElem?_cons_succ] at this
          rw [← this]; congr 1; omega
        simp [h0, h1]

/-! ### Network byte order -/

@[simp] theorem netBytes_length (n v : Nat) : (netBytes n v).length = n := by
  induction n with
  | zero => rfl
  | succ n ih => simp [netBytes, ih]

/-- A byte of a number in network byte order. -/
theorem netBytes_getElem? (n v i : Nat) (h : i < n) :
    (netBytes n v)[i]? = some (BitVec.ofNat 8 (v / 256 ^ (n - 1 - i))) := by
  induction n generalizing i with
  | zero => omega
  | succ n ih =>
    cases i with
    | zero => simp [netBytes]
    | succ i =>
      simp only [netBytes, List.getElem?_cons_succ]
      rw [ih i (by omega)]
      congr 4
      omega

/-! ### The canonical form -/

theorem Memory.wfFrom_mono {lo lo' : Nat} (h : lo' ≤ lo) {m : Memory} (hm : Memory.wfFrom lo m = true) :
    Memory.wfFrom lo' m = true := by
  cases m with
  | nil => rfl
  | cons hd m =>
    obtain ⟨b, w⟩ := hd
    simp only [Memory.wfFrom, Bool.and_eq_true, decide_eq_true_eq] at hm ⊢
    exact ⟨⟨by omega, hm.1.2⟩, hm.2⟩

theorem Memory.wfFrom_write {lo a : Nat} {m : Memory} {v : Byte} (hm : Memory.wfFrom lo m = true) (hlo : lo ≤ a)
    (ha : a < Config.fbCapacity) : Memory.wfFrom lo (m.write a v) = true := by
  induction m generalizing lo with
  | nil => simp [Memory.write, Memory.wfFrom, hlo, ha]
  | cons hd m ih =>
    obtain ⟨b, w⟩ := hd
    simp only [Memory.wfFrom, Bool.and_eq_true, decide_eq_true_eq] at hm
    unfold Memory.write
    split
    · rename_i h
      simp only [Memory.wfFrom, Bool.and_eq_true, decide_eq_true_eq]
      exact ⟨⟨hlo, ha⟩, ⟨⟨by omega, hm.1.2⟩, hm.2⟩⟩
    · split
      · subst_vars
        simp only [Memory.wfFrom, Bool.and_eq_true, decide_eq_true_eq]
        exact hm
      · simp only [Memory.wfFrom, Bool.and_eq_true, decide_eq_true_eq]
        exact ⟨hm.1, ih hm.2 (by omega)⟩

/-- A write of one byte keeps the canonical form. -/
theorem Memory.wf_write {a : Nat} {m : Memory} {v : Byte} (hm : m.wf = true) (ha : a < Config.fbCapacity) :
    (m.write a v).wf = true :=
  Memory.wfFrom_write hm (Nat.zero_le _) ha

/-- A write of consecutive bytes keeps the canonical form. -/
theorem Memory.wf_writeBytes {a : Nat} {m : Memory} {bs : List Byte} (hm : m.wf = true)
    (ha : a + bs.length ≤ Config.fbCapacity) : (m.writeBytes a bs).wf = true := by
  induction bs generalizing m a with
  | nil => exact hm
  | cons b bs ih =>
    simp only [List.length_cons] at ha
    exact ih (Memory.wf_write hm (by omega)) (by omega)

theorem zeroCells_append_wfFrom (a n : Nat) (m : Memory) (h : a + n ≤ Config.fbCapacity)
    (hm : Memory.wfFrom (a + n) m = true) : Memory.wfFrom a (zeroCells a n ++ m) = true := by
  induction n generalizing a with
  | zero => simpa [zeroCells] using hm
  | succ n ih =>
    simp only [zeroCells, List.cons_append, Memory.wfFrom, Bool.and_eq_true, decide_eq_true_eq]
    refine ⟨⟨Nat.le_refl _, by omega⟩, ih (a + 1) (by omega) ?_⟩
    rw [show a + 1 + n = a + (n + 1) by omega]; exact hm

theorem Memory.wfFrom_filter (lo n : Nat) (m : Memory) (hm : Memory.wfFrom lo m = true) :
    Memory.wfFrom (max lo n) (m.filter (fun c => decide (n ≤ c.1))) = true := by
  induction m generalizing lo with
  | nil => rfl
  | cons hd m ih =>
    obtain ⟨b, w⟩ := hd
    simp only [Memory.wfFrom, Bool.and_eq_true, decide_eq_true_eq] at hm
    have h := ih (b + 1) hm.2
    simp only [List.filter_cons]
    split
    · rename_i hn
      have hn' : n ≤ b := by simpa using hn
      simp only [Memory.wfFrom, Bool.and_eq_true, decide_eq_true_eq]
      exact ⟨⟨by omega, hm.1.2⟩, Memory.wfFrom_mono (by omega) h⟩
    · exact Memory.wfFrom_mono (by omega) h

/-- The zero fill keeps the canonical form. -/
theorem Memory.wf_zeroFill {n : Nat} {m : Memory} (hm : m.wf = true) (hn : n ≤ Config.fbCapacity) :
    (m.zeroFill n).wf = true := by
  refine zeroCells_append_wfFrom 0 n _ (by omega) ?_
  have := Memory.wfFrom_filter 0 n m hm
  simpa using this

/-- The buffer after reset is in canonical form. -/
theorem reset_fb_wf : State.reset.fb.wf = true := rfl

end Sys2Proof.Machine
end

