-- ==== Sys2Proof/Laws/State.lean ====
section
/-!
SUPPORT. One lemma per field of State per update, so that no proof unfolds a record update.
-/
namespace Sys2Proof.Machine

/-! ### setUpc -/

@[simp] theorem State.setUpc_seqId (s : State) (u : BitVec 5) : (s.setUpc u).seqId = s.seqId := rfl
@[simp] theorem State.setUpc_frameId (s : State) (u : BitVec 5) : (s.setUpc u).frameId = s.frameId := rfl
@[simp] theorem State.setUpc_nextDeadline (s : State) (u : BitVec 5) : (s.setUpc u).nextDeadline = s.nextDeadline := rfl
@[simp] theorem State.setUpc_periodNs (s : State) (u : BitVec 5) : (s.setUpc u).periodNs = s.periodNs := rfl
@[simp] theorem State.setUpc_st (s : State) (u : BitVec 5) : (s.setUpc u).st = (stOf u).getD s.st := rfl
@[simp] theorem State.setUpc_upc (s : State) (u : BitVec 5) : (s.setUpc u).upc = u := rfl
@[simp] theorem State.setUpc_cfg (s : State) (u : BitVec 5) : (s.setUpc u).cfg = s.cfg := rfl
@[simp] theorem State.setUpc_cfgValid (s : State) (u : BitVec 5) : (s.setUpc u).cfgValid = s.cfgValid := rfl
@[simp] theorem State.setUpc_built (s : State) (u : BitVec 5) : (s.setUpc u).built = s.built := rfl
@[simp] theorem State.setUpc_seqWrapped (s : State) (u : BitVec 5) : (s.setUpc u).seqWrapped = s.seqWrapped := rfl
@[simp] theorem State.setUpc_cmdRej (s : State) (u : BitVec 5) : (s.setUpc u).cmdRej = s.cmdRej := rfl
@[simp] theorem State.setUpc_errCode (s : State) (u : BitVec 5) : (s.setUpc u).errCode = s.errCode := rfl
@[simp] theorem State.setUpc_fb (s : State) (u : BitVec 5) : (s.setUpc u).fb = s.fb := rfl
@[simp] theorem State.setUpc_now (s : State) (u : BitVec 5) : (s.setUpc u).now = s.now := rfl
@[simp] theorem State.setUpc_out (s : State) (u : BitVec 5) : (s.setUpc u).out = s.out := rfl
@[simp] theorem State.setUpc_params (s : State) (u : BitVec 5) : (s.setUpc u).params = s.params := rfl
@[simp] theorem State.setUpc_agenda (s : State) (u : BitVec 5) : (s.setUpc u).agenda = s.agenda := rfl
@[simp] theorem State.setUpc_sinkQueue (s : State) (u : BitVec 5) : (s.setUpc u).sinkQueue = s.sinkQueue := rfl
@[simp] theorem State.setUpc_sinkDraws (s : State) (u : BitVec 5) : (s.setUpc u).sinkDraws = s.sinkDraws := rfl
@[simp] theorem State.setUpc_clockDraws (s : State) (u : BitVec 5) : (s.setUpc u).clockDraws = s.clockDraws := rfl
@[simp] theorem State.setUpc_microSlot (s : State) (u : BitVec 5) : (s.setUpc u).microSlot = s.microSlot := rfl
@[simp] theorem State.setUpc_trace (s : State) (u : BitVec 5) : (s.setUpc u).trace = s.trace := rfl

/-! ### emit -/

@[simp] theorem State.emit_seqId (s : State) (e : Event) : (s.emit e).seqId = s.seqId := rfl
@[simp] theorem State.emit_frameId (s : State) (e : Event) : (s.emit e).frameId = s.frameId := rfl
@[simp] theorem State.emit_nextDeadline (s : State) (e : Event) : (s.emit e).nextDeadline = s.nextDeadline := rfl
@[simp] theorem State.emit_periodNs (s : State) (e : Event) : (s.emit e).periodNs = s.periodNs := rfl
@[simp] theorem State.emit_st (s : State) (e : Event) : (s.emit e).st = s.st := rfl
@[simp] theorem State.emit_upc (s : State) (e : Event) : (s.emit e).upc = s.upc := rfl
@[simp] theorem State.emit_cfg (s : State) (e : Event) : (s.emit e).cfg = s.cfg := rfl
@[simp] theorem State.emit_cfgValid (s : State) (e : Event) : (s.emit e).cfgValid = s.cfgValid := rfl
@[simp] theorem State.emit_built (s : State) (e : Event) : (s.emit e).built = s.built := rfl
@[simp] theorem State.emit_seqWrapped (s : State) (e : Event) : (s.emit e).seqWrapped = s.seqWrapped := rfl
@[simp] theorem State.emit_cmdRej (s : State) (e : Event) : (s.emit e).cmdRej = s.cmdRej := rfl
@[simp] theorem State.emit_errCode (s : State) (e : Event) : (s.emit e).errCode = s.errCode := rfl
@[simp] theorem State.emit_fb (s : State) (e : Event) : (s.emit e).fb = s.fb := rfl
@[simp] theorem State.emit_now (s : State) (e : Event) : (s.emit e).now = s.now := rfl
@[simp] theorem State.emit_out (s : State) (e : Event) : (s.emit e).out = s.out := rfl
@[simp] theorem State.emit_params (s : State) (e : Event) : (s.emit e).params = s.params := rfl
@[simp] theorem State.emit_agenda (s : State) (e : Event) : (s.emit e).agenda = s.agenda := rfl
@[simp] theorem State.emit_sinkQueue (s : State) (e : Event) : (s.emit e).sinkQueue = s.sinkQueue := rfl
@[simp] theorem State.emit_sinkDraws (s : State) (e : Event) : (s.emit e).sinkDraws = s.sinkDraws := rfl
@[simp] theorem State.emit_clockDraws (s : State) (e : Event) : (s.emit e).clockDraws = s.clockDraws := rfl
@[simp] theorem State.emit_microSlot (s : State) (e : Event) : (s.emit e).microSlot = s.microSlot := rfl
@[simp] theorem State.emit_trace (s : State) (e : Event) : (s.emit e).trace = s.trace ++ [e] := rfl

/-! ### showTx -/

@[simp] theorem State.showTx_seqId (s : State) (bs : List Byte) : (s.showTx bs).seqId = s.seqId := rfl
@[simp] theorem State.showTx_frameId (s : State) (bs : List Byte) : (s.showTx bs).frameId = s.frameId := rfl
@[simp] theorem State.showTx_nextDeadline (s : State) (bs : List Byte) : (s.showTx bs).nextDeadline = s.nextDeadline := rfl
@[simp] theorem State.showTx_periodNs (s : State) (bs : List Byte) : (s.showTx bs).periodNs = s.periodNs := rfl
@[simp] theorem State.showTx_st (s : State) (bs : List Byte) : (s.showTx bs).st = s.st := rfl
@[simp] theorem State.showTx_upc (s : State) (bs : List Byte) : (s.showTx bs).upc = s.upc := rfl
@[simp] theorem State.showTx_cfg (s : State) (bs : List Byte) : (s.showTx bs).cfg = s.cfg := rfl
@[simp] theorem State.showTx_cfgValid (s : State) (bs : List Byte) : (s.showTx bs).cfgValid = s.cfgValid := rfl
@[simp] theorem State.showTx_built (s : State) (bs : List Byte) : (s.showTx bs).built = s.built := rfl
@[simp] theorem State.showTx_seqWrapped (s : State) (bs : List Byte) : (s.showTx bs).seqWrapped = s.seqWrapped := rfl
@[simp] theorem State.showTx_cmdRej (s : State) (bs : List Byte) : (s.showTx bs).cmdRej = s.cmdRej := rfl
@[simp] theorem State.showTx_errCode (s : State) (bs : List Byte) : (s.showTx bs).errCode = s.errCode := rfl
@[simp] theorem State.showTx_fb (s : State) (bs : List Byte) : (s.showTx bs).fb = s.fb := rfl
@[simp] theorem State.showTx_now (s : State) (bs : List Byte) : (s.showTx bs).now = s.now := rfl
@[simp] theorem State.showTx_out (s : State) (bs : List Byte) : (s.showTx bs).out = { s.out with txReq := true, txLen := BitVec.ofNat 11 (liveLen s.cfg), txData := bs } := rfl
@[simp] theorem State.showTx_params (s : State) (bs : List Byte) : (s.showTx bs).params = s.params := rfl
@[simp] theorem State.showTx_agenda (s : State) (bs : List Byte) : (s.showTx bs).agenda = s.agenda := rfl
@[simp] theorem State.showTx_sinkQueue (s : State) (bs : List Byte) : (s.showTx bs).sinkQueue = s.sinkQueue := rfl
@[simp] theorem State.showTx_sinkDraws (s : State) (bs : List Byte) : (s.showTx bs).sinkDraws = s.sinkDraws := rfl
@[simp] theorem State.showTx_clockDraws (s : State) (bs : List Byte) : (s.showTx bs).clockDraws = s.clockDraws := rfl
@[simp] theorem State.showTx_microSlot (s : State) (bs : List Byte) : (s.showTx bs).microSlot = s.microSlot := rfl
@[simp] theorem State.showTx_trace (s : State) (bs : List Byte) : (s.showTx bs).trace = s.trace := rfl

/-! ### showRelease -/

@[simp] theorem State.showRelease_seqId (s : State) : (s.showRelease).seqId = s.seqId := rfl
@[simp] theorem State.showRelease_frameId (s : State) : (s.showRelease).frameId = s.frameId := rfl
@[simp] theorem State.showRelease_nextDeadline (s : State) : (s.showRelease).nextDeadline = s.nextDeadline := rfl
@[simp] theorem State.showRelease_periodNs (s : State) : (s.showRelease).periodNs = s.periodNs := rfl
@[simp] theorem State.showRelease_st (s : State) : (s.showRelease).st = s.st := rfl
@[simp] theorem State.showRelease_upc (s : State) : (s.showRelease).upc = s.upc := rfl
@[simp] theorem State.showRelease_cfg (s : State) : (s.showRelease).cfg = s.cfg := rfl
@[simp] theorem State.showRelease_cfgValid (s : State) : (s.showRelease).cfgValid = s.cfgValid := rfl
@[simp] theorem State.showRelease_built (s : State) : (s.showRelease).built = s.built := rfl
@[simp] theorem State.showRelease_seqWrapped (s : State) : (s.showRelease).seqWrapped = s.seqWrapped := rfl
@[simp] theorem State.showRelease_cmdRej (s : State) : (s.showRelease).cmdRej = s.cmdRej := rfl
@[simp] theorem State.showRelease_errCode (s : State) : (s.showRelease).errCode = s.errCode := rfl
@[simp] theorem State.showRelease_fb (s : State) : (s.showRelease).fb = s.fb := rfl
@[simp] theorem State.showRelease_now (s : State) : (s.showRelease).now = s.now := rfl
@[simp] theorem State.showRelease_out (s : State) : (s.showRelease).out = { s.out with txRelease := true } := rfl
@[simp] theorem State.showRelease_params (s : State) : (s.showRelease).params = s.params := rfl
@[simp] theorem State.showRelease_agenda (s : State) : (s.showRelease).agenda = s.agenda := rfl
@[simp] theorem State.showRelease_sinkQueue (s : State) : (s.showRelease).sinkQueue = s.sinkQueue := rfl
@[simp] theorem State.showRelease_sinkDraws (s : State) : (s.showRelease).sinkDraws = s.sinkDraws := rfl
@[simp] theorem State.showRelease_clockDraws (s : State) : (s.showRelease).clockDraws = s.clockDraws := rfl
@[simp] theorem State.showRelease_microSlot (s : State) : (s.showRelease).microSlot = s.microSlot := rfl
@[simp] theorem State.showRelease_trace (s : State) : (s.showRelease).trace = s.trace := rfl

/-! ### beginStep -/

@[simp] theorem State.beginStep_seqId (s : State) : (s.beginStep).seqId = s.seqId := rfl
@[simp] theorem State.beginStep_frameId (s : State) : (s.beginStep).frameId = s.frameId := rfl
@[simp] theorem State.beginStep_nextDeadline (s : State) : (s.beginStep).nextDeadline = s.nextDeadline := rfl
@[simp] theorem State.beginStep_periodNs (s : State) : (s.beginStep).periodNs = s.periodNs := rfl
@[simp] theorem State.beginStep_st (s : State) : (s.beginStep).st = s.st := rfl
@[simp] theorem State.beginStep_upc (s : State) : (s.beginStep).upc = s.upc := rfl
@[simp] theorem State.beginStep_cfg (s : State) : (s.beginStep).cfg = s.cfg := rfl
@[simp] theorem State.beginStep_cfgValid (s : State) : (s.beginStep).cfgValid = s.cfgValid := rfl
@[simp] theorem State.beginStep_built (s : State) : (s.beginStep).built = s.built := rfl
@[simp] theorem State.beginStep_seqWrapped (s : State) : (s.beginStep).seqWrapped = s.seqWrapped := rfl
@[simp] theorem State.beginStep_cmdRej (s : State) : (s.beginStep).cmdRej = s.cmdRej := rfl
@[simp] theorem State.beginStep_errCode (s : State) : (s.beginStep).errCode = s.errCode := rfl
@[simp] theorem State.beginStep_fb (s : State) : (s.beginStep).fb = s.fb := rfl
@[simp] theorem State.beginStep_now (s : State) : (s.beginStep).now = s.now := rfl
@[simp] theorem State.beginStep_out (s : State) : (s.beginStep).out = Ports.quiet := rfl
@[simp] theorem State.beginStep_params (s : State) : (s.beginStep).params = s.params := rfl
@[simp] theorem State.beginStep_agenda (s : State) : (s.beginStep).agenda = s.agenda := rfl
@[simp] theorem State.beginStep_sinkQueue (s : State) : (s.beginStep).sinkQueue = s.sinkQueue := rfl
@[simp] theorem State.beginStep_sinkDraws (s : State) : (s.beginStep).sinkDraws = s.sinkDraws := rfl
@[simp] theorem State.beginStep_clockDraws (s : State) : (s.beginStep).clockDraws = s.clockDraws := rfl
@[simp] theorem State.beginStep_microSlot (s : State) : (s.beginStep).microSlot = s.microSlot := rfl
@[simp] theorem State.beginStep_trace (s : State) : (s.beginStep).trace = s.trace := rfl

/-! ### clockTick -/

@[simp] theorem State.clockTick_seqId (s : State) : (s.clockTick).seqId = s.seqId := rfl
@[simp] theorem State.clockTick_frameId (s : State) : (s.clockTick).frameId = s.frameId := rfl
@[simp] theorem State.clockTick_nextDeadline (s : State) : (s.clockTick).nextDeadline = s.nextDeadline := rfl
@[simp] theorem State.clockTick_periodNs (s : State) : (s.clockTick).periodNs = s.periodNs := rfl
@[simp] theorem State.clockTick_st (s : State) : (s.clockTick).st = s.st := rfl
@[simp] theorem State.clockTick_upc (s : State) : (s.clockTick).upc = s.upc := rfl
@[simp] theorem State.clockTick_cfg (s : State) : (s.clockTick).cfg = s.cfg := rfl
@[simp] theorem State.clockTick_cfgValid (s : State) : (s.clockTick).cfgValid = s.cfgValid := rfl
@[simp] theorem State.clockTick_built (s : State) : (s.clockTick).built = s.built := rfl
@[simp] theorem State.clockTick_seqWrapped (s : State) : (s.clockTick).seqWrapped = s.seqWrapped := rfl
@[simp] theorem State.clockTick_cmdRej (s : State) : (s.clockTick).cmdRej = s.cmdRej := rfl
@[simp] theorem State.clockTick_errCode (s : State) : (s.clockTick).errCode = s.errCode := rfl
@[simp] theorem State.clockTick_fb (s : State) : (s.clockTick).fb = s.fb := rfl
@[simp] theorem State.clockTick_now (s : State) : (s.clockTick).now = s.drawnTime := rfl
@[simp] theorem State.clockTick_out (s : State) : (s.clockTick).out = s.out := rfl
@[simp] theorem State.clockTick_params (s : State) : (s.clockTick).params = s.params := rfl
@[simp] theorem State.clockTick_agenda (s : State) : (s.clockTick).agenda = s.agenda := rfl
@[simp] theorem State.clockTick_sinkQueue (s : State) : (s.clockTick).sinkQueue = s.sinkQueue := rfl
@[simp] theorem State.clockTick_sinkDraws (s : State) : (s.clockTick).sinkDraws = s.sinkDraws := rfl
@[simp] theorem State.clockTick_clockDraws (s : State) : (s.clockTick).clockDraws = s.clockDraws + 1 := rfl
@[simp] theorem State.clockTick_microSlot (s : State) : (s.clockTick).microSlot = s.microSlot := rfl
@[simp] theorem State.clockTick_trace (s : State) : (s.clockTick).trace = s.trace := rfl

/-! ### doReset -/

@[simp] theorem State.doReset_seqId (s : State) : (s.doReset).seqId = State.reset.seqId := rfl
@[simp] theorem State.doReset_frameId (s : State) : (s.doReset).frameId = State.reset.frameId := rfl
@[simp] theorem State.doReset_nextDeadline (s : State) : (s.doReset).nextDeadline = State.reset.nextDeadline := rfl
@[simp] theorem State.doReset_periodNs (s : State) : (s.doReset).periodNs = State.reset.periodNs := rfl
@[simp] theorem State.doReset_st (s : State) : (s.doReset).st = State.reset.st := rfl
@[simp] theorem State.doReset_upc (s : State) : (s.doReset).upc = State.reset.upc := rfl
@[simp] theorem State.doReset_cfg (s : State) : (s.doReset).cfg = State.reset.cfg := rfl
@[simp] theorem State.doReset_cfgValid (s : State) : (s.doReset).cfgValid = State.reset.cfgValid := rfl
@[simp] theorem State.doReset_built (s : State) : (s.doReset).built = State.reset.built := rfl
@[simp] theorem State.doReset_seqWrapped (s : State) : (s.doReset).seqWrapped = State.reset.seqWrapped := rfl
@[simp] theorem State.doReset_cmdRej (s : State) : (s.doReset).cmdRej = State.reset.cmdRej := rfl
@[simp] theorem State.doReset_errCode (s : State) : (s.doReset).errCode = State.reset.errCode := rfl
@[simp] theorem State.doReset_fb (s : State) : (s.doReset).fb = State.reset.fb := rfl
@[simp] theorem State.doReset_now (s : State) : (s.doReset).now = s.now := rfl
@[simp] theorem State.doReset_out (s : State) : (s.doReset).out = State.reset.out := rfl
@[simp] theorem State.doReset_params (s : State) : (s.doReset).params = s.params := rfl
@[simp] theorem State.doReset_agenda (s : State) : (s.doReset).agenda = s.agenda := rfl
@[simp] theorem State.doReset_sinkQueue (s : State) : (s.doReset).sinkQueue = s.sinkQueue := rfl
@[simp] theorem State.doReset_sinkDraws (s : State) : (s.doReset).sinkDraws = s.sinkDraws := rfl
@[simp] theorem State.doReset_clockDraws (s : State) : (s.doReset).clockDraws = s.clockDraws := rfl
@[simp] theorem State.doReset_microSlot (s : State) : (s.doReset).microSlot = s.microSlot := rfl
@[simp] theorem State.doReset_trace (s : State) : (s.doReset).trace = s.trace := rfl

/-! ### sinkAnswered -/

@[simp] theorem State.sinkAnswered_seqId (s : State) : s.sinkAnswered.seqId = s.seqId := by
  unfold State.sinkAnswered; split <;> rfl
@[simp] theorem State.sinkAnswered_frameId (s : State) : s.sinkAnswered.frameId = s.frameId := by
  unfold State.sinkAnswered; split <;> rfl
@[simp] theorem State.sinkAnswered_nextDeadline (s : State) : s.sinkAnswered.nextDeadline = s.nextDeadline := by
  unfold State.sinkAnswered; split <;> rfl
@[simp] theorem State.sinkAnswered_periodNs (s : State) : s.sinkAnswered.periodNs = s.periodNs := by
  unfold State.sinkAnswered; split <;> rfl
@[simp] theorem State.sinkAnswered_st (s : State) : s.sinkAnswered.st = s.st := by
  unfold State.sinkAnswered; split <;> rfl
@[simp] theorem State.sinkAnswered_upc (s : State) : s.sinkAnswered.upc = s.upc := by
  unfold State.sinkAnswered; split <;> rfl
@[simp] theorem State.sinkAnswered_cfg (s : State) : s.sinkAnswered.cfg = s.cfg := by
  unfold State.sinkAnswered; split <;> rfl
@[simp] theorem State.sinkAnswered_cfgValid (s : State) : s.sinkAnswered.cfgValid = s.cfgValid := by
  unfold State.sinkAnswered; split <;> rfl
@[simp] theorem State.sinkAnswered_built (s : State) : s.sinkAnswered.built = s.built := by
  unfold State.sinkAnswered; split <;> rfl
@[simp] theorem State.sinkAnswered_seqWrapped (s : State) : s.sinkAnswered.seqWrapped = s.seqWrapped := by
  unfold State.sinkAnswered; split <;> rfl
@[simp] theorem State.sinkAnswered_cmdRej (s : State) : s.sinkAnswered.cmdRej = s.cmdRej := by
  unfold State.sinkAnswered; split <;> rfl
@[simp] theorem State.sinkAnswered_errCode (s : State) : s.sinkAnswered.errCode = s.errCode := by
  unfold State.sinkAnswered; split <;> rfl
@[simp] theorem State.sinkAnswered_fb (s : State) : s.sinkAnswered.fb = s.fb := by
  unfold State.sinkAnswered; split <;> rfl
@[simp] theorem State.sinkAnswered_now (s : State) : s.sinkAnswered.now = s.now := by
  unfold State.sinkAnswered; split <;> rfl
@[simp] theorem State.sinkAnswered_out (s : State) : s.sinkAnswered.out = s.out := by
  unfold State.sinkAnswered; split <;> rfl
@[simp] theorem State.sinkAnswered_params (s : State) : s.sinkAnswered.params = s.params := by
  unfold State.sinkAnswered; split <;> rfl
@[simp] theorem State.sinkAnswered_agenda (s : State) : s.sinkAnswered.agenda = s.agenda := by
  unfold State.sinkAnswered; split <;> rfl
@[simp] theorem State.sinkAnswered_clockDraws (s : State) : s.sinkAnswered.clockDraws = s.clockDraws := by
  unfold State.sinkAnswered; split <;> rfl
@[simp] theorem State.sinkAnswered_microSlot (s : State) : s.sinkAnswered.microSlot = s.microSlot := by
  unfold State.sinkAnswered; split <;> rfl
@[simp] theorem State.sinkAnswered_trace (s : State) : s.sinkAnswered.trace = s.trace := by
  unfold State.sinkAnswered; split <;> rfl
@[simp] theorem State.sinkAnswered_sinkQueue (s : State) : s.sinkAnswered.sinkQueue = s.sinkQueue.tail := by
  cases h : s.sinkQueue <;> simp [State.sinkAnswered, h]
@[simp] theorem State.sinkAnswered_sinkDraws (s : State) :
    s.sinkAnswered.sinkDraws = if s.sinkQueue = [] then s.sinkDraws + 1 else s.sinkDraws := by
  cases h : s.sinkQueue <;> simp [State.sinkAnswered, h]

/-! ### raise and reject -/

/-- All that `raise ConfigurationError` can do. -/
theorem raiseConfig_next (e : ConfigError) (s t : State) :
    raiseConfig e s = .next t ↔ t = { s with errCode := configErrorCode e, st := .error, cfgValid := false } := by
  simp [raiseConfig, eq_comm]

/-- All that `raise Fault` can do. -/
theorem raiseFault_next (e : TimeFault) (s t : State) :
    raiseFault e s = .next t ↔ t = { s with errCode := timeFaultCode e, st := .error } := by
  simp [raiseFault, eq_comm]

/-- All that `reject` can do. -/
theorem reject_next (s t : State) : reject s = .next t ↔ t = { s with cmdRej := true } := by
  simp [reject, eq_comm]

end Sys2Proof.Machine
end

