-- ==== Sys2Proof/Laws/Ops.lean ====
section
/-!
SUPPORT. For each shared operation, once, all it can do; and the bounds that keep the counter fields inside the buffer.
-/
namespace Sys2Proof.Machine

/-! ### Chaining -/

@[simp] theorem andThen_of_next (s : State) (f : State → Result) : andThen (.next s) f = f s := rfl

/-- All that a chain can do: it answers a next state only through a next state of its first part. -/
theorem andThen_next {o : Result} {f : State → Result} {t : State} :
    andThen o f = .next t ↔ ∃ s, o = .next s ∧ f s = .next t := by
  cases o <;> simp [andThen]

/-! ### Writing the buffer -/

/-- All that `MemWrite` can do. -/
theorem memWrite_next {a n v : Nat} {s t : State} :
    memWrite a n v s = .next t ↔
      a + n ≤ Config.fbCapacity ∧ t = { s with fb := s.fb.writeBytes a (netBytes n v) } := by
  unfold memWrite
  split
  · rename_i h; simp only [Host.Outcome.next.injEq, h, true_and]; exact eq_comm
  · rename_i h; simp [h]

/-- `MemWrite` inside the buffer. -/
theorem memWrite_of_le {a n : Nat} (v : Nat) (s : State) (h : a + n ≤ Config.fbCapacity) :
    memWrite a n v s = .next { s with fb := s.fb.writeBytes a (netBytes n v) } := by
  simp [memWrite, h]

/-- All that the zero fill can do. -/
theorem memZero_next {n : Nat} {s t : State} :
    memZero n s = .next t ↔ n ≤ Config.fbCapacity ∧ t = { s with fb := s.fb.zeroFill n } := by
  unfold memZero
  split
  · rename_i h; simp only [Host.Outcome.next.injEq, h, true_and]; exact eq_comm
  · rename_i h; simp [h]

/-- What one byte reads after `MemWrite`'s bytes. -/
theorem read_memWritten (m : Memory) (a n v c : Nat) :
    (m.writeBytes a (netBytes n v)).read c = if a ≤ c ∧ c < a + n then (netBytes n v)[c - a]? else m.read c := by
  simpa using Memory.read_writeBytes m a c (netBytes n v)

/-! ### Where the fields lie -/

theorem headerLen_cases (c : Cfg) : headerLen c = 14 ∨ headerLen c = 18 := by
  unfold headerLen; split <;> simp [Config.hdrTagged, Config.hdrUntagged]

theorem offSeq_bound (c : Cfg) : offSeq c + 4 ≤ Config.fbCapacity := by
  have := headerLen_cases c; simp only [offSeq, Config.fbCapacity]; omega

theorem offFrm_bound (c : Cfg) : offFrm c + 4 ≤ Config.fbCapacity := by
  have := headerLen_cases c; simp only [offFrm, Config.fbCapacity]; omega

theorem offEtype_bound (c : Cfg) : offEtype c + 2 ≤ Config.fbCapacity := by
  unfold offEtype; split <;> simp [Config.fbCapacity]

/-! ### The configuration that passes the checks -/

/-- What the checks of VALIDATE leave true (40 R92). -/
theorem firstConfigError_none {c : Cfg} (h : firstConfigError c = none) :
    c.ethertype.toNat ≤ 0xFFFE ∧ c.vlanId.toNat ≤ 0x0FFF ∧ c.vlanPcp.toNat ≤ 7 ∧
    64 ≤ c.frameSize.toNat ∧ c.frameSize.toNat ≤ maxFrame c ∧ c.burstSize ≠ 0#32 ∧
    (c.nBurstsEn = true → c.nBursts ≠ 0#32) ∧ c.cycleTimeNs ≠ 0#64 := by
  unfold firstConfigError at h
  repeat' split at h
  all_goals first | (simp at h; done) | skip
  simp_all only [Config.ethertypeMax, Config.vlanIdMax, Config.vlanPcpMax, Config.minFrame]
  refine ⟨by omega, by omega, by omega, by omega, by omega, by assumption, ?_, by assumption⟩
  intro h1 h2; simp_all

/-- The live part of a checked configuration: at least 60 bytes, at most the buffer (20 R49). -/
theorem liveLen_bounds {c : Cfg} (h : firstConfigError c = none) :
    60 ≤ liveLen c ∧ liveLen c ≤ Config.fbCapacity := by
  obtain ⟨-, -, -, h1, h2, -⟩ := firstConfigError_none h
  have h3 : maxFrame c ≤ 1522 := by
    unfold maxFrame; split <;> simp [Config.maxFrameTagged, Config.maxFrameUntagged]
  simp only [liveLen, Config.fcsLen, Config.fbCapacity]
  omega

/-! ### Time -/

theorem ns_eq (t : Timestamp) : ns t = t.sec.toNat * 1000000000 + t.nsec.toNat := by
  simp [ns, Config.nsecPerSec, Nat.mul_comm]

theorem fitsTimestamp_iff (n : Nat) : fitsTimestamp n = true ↔ n / 1000000000 < 2 ^ 64 := by
  exact decide_eq_true_iff

/-- `ts` undoes `ns` on every number that fits (00 R10). -/
theorem ns_ts {n : Nat} (h : fitsTimestamp n = true) : ns (ts n) = n := by
  rw [fitsTimestamp_iff] at h
  simp only [ns_eq, ts, Config.nsecPerSec, BitVec.toNat_ofNat]
  rw [Nat.mod_eq_of_lt h, Nat.mod_eq_of_lt (by omega)]
  omega

/-- `ts` gives a normalised timestamp. -/
theorem normalised_ts (n : Nat) : normalised (ts n) = true := by
  simp only [normalised, ts, Config.nsecPerSec, BitVec.toNat_ofNat, decide_eq_true_eq]
  rw [Nat.mod_eq_of_lt (by omega)]
  omega

/-- CLOCK's free step never takes the time back (42 R103). -/
theorem drawnTime_ge (s : State) : ns s.now ≤ ns s.drawnTime := by
  unfold State.drawnTime
  split
  · rename_i h; simp only [clockLegal, Bool.and_eq_true, decide_eq_true_eq] at h; exact h.1
  · exact Nat.le_refl _

end Sys2Proof.Machine
end

