-- ==== Sys2Proof/Laws/Exec.lean ====
section
/-!
SUPPORT. For each operation, once, all it can do: if it answers a next state, then that one. The provers cite these
instead of unfolding a meaning.
-/
namespace Sys2Proof.Machine

theorem execNop_next {s t : State} (h : execNop s = .next t) : t = s := by
  cases h; rfl

/-- VALIDATE rejects, or raises the first failing check, or makes the configuration valid. -/
theorem execValidate_next {s t : State} (h : execValidate s = .next t) :
    t = { s with cmdRej := true } ∨
    (s.st = .idle ∧ s.cfgValid = false ∧ firstConfigError s.cfg = none ∧ t = { s with cfgValid := true }) ∨
    (s.st = .idle ∧ s.cfgValid = false ∧ ∃ e, firstConfigError s.cfg = some e ∧
      t = { s with errCode := configErrorCode e, st := .error, cfgValid := false }) := by
  unfold execValidate at h
  split at h
  · rename_i ha
    simp only [State.acceptsValidate, Bool.and_eq_true, decide_eq_true_eq, Bool.not_eq_true'] at ha
    split at h
    · rename_i e he; cases h; exact .inr (.inr ⟨ha.1, ha.2, e, he, rfl⟩)
    · rename_i he; cases h; exact .inr (.inl ⟨ha.1, ha.2, he, rfl⟩)
  · cases h; exact .inl rfl

/-- BUILD rejects, or goes through its five micro-operations. -/
theorem execBuild_next {s t : State} (h : execBuild s = .next t) :
    t = { s with cmdRej := true } ∨
    (s.st = .idle ∧ s.cfgValid = true ∧ s.built = false ∧ ∃ s1 s2 s3 s4 s5, execFbZero s = .next s1 ∧
      execFbWrDmac s1 = .next s2 ∧ execFbWrSmac s2 = .next s3 ∧ execFbWrTag s3 = .next s4 ∧
      execFbWrEtype s4 = .next s5 ∧ t = { s5 with seqId := 0#32, frameId := 0#32, built := true }) := by
  unfold execBuild at h
  split at h
  · rename_i ha
    simp only [State.acceptsBuild, Bool.and_eq_true, decide_eq_true_eq, Bool.not_eq_true'] at ha
    obtain ⟨s1, h1, h⟩ := andThen_next.1 h
    obtain ⟨s2, h2, h⟩ := andThen_next.1 h
    obtain ⟨s3, h3, h⟩ := andThen_next.1 h
    obtain ⟨s4, h4, h⟩ := andThen_next.1 h
    obtain ⟨s5, h5, h⟩ := andThen_next.1 h
    cases h
    exact .inr ⟨ha.1.1, ha.1.2, ha.2, s1, s2, s3, s4, s5, h1, h2, h3, h4, h5, rfl⟩
  · cases h; exact .inl rfl

theorem execRun_next {s t : State} (h : execRun s = .next t) :
    t = { s with cmdRej := true } ∨
    (s.st = .idle ∧ s.cfgValid = true ∧ s.built = true ∧ t = { s with st := .arming, upc := 0#5 }) := by
  unfold execRun at h
  split at h
  · rename_i ha
    simp only [State.acceptsRun, Bool.and_eq_true, decide_eq_true_eq] at ha
    cases h; exact .inr ⟨ha.1.1, ha.1.2, ha.2, rfl⟩
  · cases h; exact .inl rfl

theorem execFbZero_next {s t : State} (h : execFbZero s = .next t) :
    liveLen s.cfg ≤ Config.fbCapacity ∧ t = { s with fb := s.fb.zeroFill (liveLen s.cfg) } := memZero_next.1 h

theorem execFbWrDmac_next {s t : State} (h : execFbWrDmac s = .next t) :
    t = { s with fb := s.fb.writeBytes offDmac (netBytes 6 s.cfg.destMac.toNat) } := (memWrite_next.1 h).2

theorem execFbWrSmac_next {s t : State} (h : execFbWrSmac s = .next t) :
    t = { s with fb := s.fb.writeBytes offSmac (netBytes 6 s.cfg.srcMac.toNat) } := (memWrite_next.1 h).2

theorem execFbWrTag_next {s t : State} (h : execFbWrTag s = .next t) :
    (s.cfg.vlanTagged = false ∧ t = s) ∨
    (s.cfg.vlanTagged = true ∧ t = { s with
      fb := (s.fb.writeBytes offTpid (netBytes 2 s.params.tpid.toNat)).writeBytes offTci
        (netBytes 2 (tci s.cfg).toNat) }) := by
  unfold execFbWrTag at h
  split at h
  · rename_i ht
    obtain ⟨s1, h1, h2⟩ := andThen_next.1 h
    have e1 := (memWrite_next.1 h1).2
    have e2 := (memWrite_next.1 h2).2
    subst e1; exact .inr ⟨ht, e2⟩
  · rename_i ht; cases h; exact .inl ⟨by simpa using ht, rfl⟩

theorem execFbWrEtype_next {s t : State} (h : execFbWrEtype s = .next t) :
    t = { s with fb := s.fb.writeBytes (offEtype s.cfg) (netBytes 2 s.cfg.ethertype.toNat) } := (memWrite_next.1 h).2

/-- ARM sets the deadline or raises `F_ARM_OVF`. -/
theorem execArm_next {s t : State} (h : execArm s = .next t) :
    (fitsTimestamp (firstDeadline (ns s.now) s.cfg.cycleTimeNs.toNat) = true ∧ t = { s with
      periodNs := s.cfg.cycleTimeNs
      nextDeadline := ts (firstDeadline (ns s.now) s.cfg.cycleTimeNs.toNat)
      upc := 1#5
      st := .arming }) ∨
    (fitsTimestamp (firstDeadline (ns s.now) s.cfg.cycleTimeNs.toNat) = false ∧
      t = { s with errCode := 0x20#8, st := .error }) := by
  unfold execArm at h
  split at h
  · rename_i hf; cases h; exact .inl ⟨hf, rfl⟩
  · rename_i hf; cases h; exact .inr ⟨by simpa using hf, rfl⟩

/-- WAIT goes on or is held. -/
theorem execWait_next {s t : State} (h : execWait s = .next t) :
    (s.waitEnabled = true ∧ t = s.setUpc (s.upc + 1#5)) ∨ (s.waitEnabled = false ∧ t = s) := by
  unfold execWait at h
  split at h
  · rename_i hf; cases h; exact .inl ⟨hf, rfl⟩
  · rename_i hf; cases h; exact .inr ⟨by simpa using hf, rfl⟩

/-- ADVANCE sets the next deadline or raises `F_ADVANCE_OVF`. -/
theorem execAdvance_next {s t : State} (h : execAdvance s = .next t) :
    (fitsTimestamp (ns s.nextDeadline + s.periodNs.toNat) = true ∧ t = { s with
      nextDeadline := ts (ns s.nextDeadline + s.periodNs.toNat)
      upc := 3#5
      st := .burstSending }) ∨
    (fitsTimestamp (ns s.nextDeadline + s.periodNs.toNat) = false ∧
      t = { s with errCode := 0x21#8, st := .error }) := by
  unfold execAdvance at h
  split at h
  · rename_i hf; cases h; exact .inl ⟨hf, rfl⟩
  · rename_i hf; cases h; exact .inr ⟨by simpa using hf, rfl⟩

theorem execFinc_next {s t : State} (h : execFinc s = .next t) :
    t = { s with
      fb := s.fb.writeBytes (offFrm s.cfg) (netBytes 4 (s.frameId + 1#32).toNat)
      frameId := s.frameId + 1#32
      upc := fincNext s.params.seqIncPhase
      st := .burstSending } := by
  obtain ⟨s1, h1, h2⟩ := andThen_next.1 h
  have e1 := (memWrite_next.1 h1).2
  subst e1; cases h2
  cases s.params.seqIncPhase <;> simp [State.setUpc, fincNext, stOf]

theorem execFrst_next {s t : State} (h : execFrst s = .next t) :
    t = { s with
      fb := s.fb.writeBytes (offFrm s.cfg) (netBytes 4 0)
      frameId := 0#32
      upc := frstNext s.params.seqIncPhase
      st := .burstSending } := by
  obtain ⟨s1, h1, h2⟩ := andThen_next.1 h
  have e1 := (memWrite_next.1 h1).2
  subst e1; cases h2
  cases s.params.seqIncPhase <;> simp [State.setUpc, frstNext, stOf]

theorem execSinc_next {s t : State} (h : execSinc s = .next t) :
    t = { s with
      fb := s.fb.writeBytes (offSeq s.cfg) (netBytes 4 (s.seqId + 1#32).toNat)
      seqId := s.seqId + 1#32
      seqWrapped := s.wrapFlag
      upc := sincNext s.params.seqIncPhase
      st := .burstSending } := by
  obtain ⟨s1, h1, h2⟩ := andThen_next.1 h
  have e1 := (memWrite_next.1 h1).2
  subst e1; cases h2
  cases s.params.seqIncPhase <;> simp [State.setUpc, sincNext, stOf, State.wrapFlag]

theorem sinkAnswered_eq (s : State) : s.sinkAnswered = { s with
    sinkQueue := s.sinkQueue.tail
    sinkDraws := if s.sinkQueue = [] then s.sinkDraws + 1 else s.sinkDraws } := by
  unfold State.sinkAnswered
  split <;> rename_i h <;> simp [h]

/-- SEND hands over the live part, or stops. -/
theorem execSend_next {s t : State} (h : execSend s = .next t) :
    ∃ bytes, s.fb.readBytes 0 (liveLen s.cfg) = some bytes ∧ t = { s with
      sinkQueue := s.sinkQueue.tail
      sinkDraws := if s.sinkQueue = [] then s.sinkDraws + 1 else s.sinkDraws
      trace := s.trace ++ [.tx bytes s.sinkAnswer (ns s.now)]
      out := { s.out with txReq := true, txLen := BitVec.ofNat 11 (liveLen s.cfg), txData := bytes }
      upc := sendNext s.params.seqIncPhase
      st := .burstSending } := by
  unfold execSend at h
  split at h
  · rename_i bytes hb
    refine ⟨bytes, hb, ?_⟩
    cases h
    cases s.params.seqIncPhase <;>
      simp [State.setUpc, State.showTx, State.emit, sinkAnswered_eq, sendNext, stOf]
  · cases h

theorem execBloop_next {s t : State} (h : execBloop s = .next t) :
    (s.frameId.toNat < s.cfg.burstSize.toNat ∧
      t = { s with upc := bloopAgain s.params.seqIncPhase, st := .burstSending }) ∨
    (s.cfg.burstSize.toNat ≤ s.frameId.toNat ∧
      t = { s with upc := bloopDone s.params.seqIncPhase, st := .burstSending }) := by
  cases h
  by_cases hf : s.frameId.toNat < s.cfg.burstSize.toNat
  · refine .inl ⟨hf, ?_⟩
    cases s.params.seqIncPhase <;> simp [State.setUpc, State.burstOpen, hf, bloopAgain, stOf]
  · refine .inr ⟨by omega, ?_⟩
    cases s.params.seqIncPhase <;> simp [State.setUpc, State.burstOpen, hf, bloopDone, stOf]

theorem execTchk_next {s t : State} (h : execTchk s = .next t) :
    (s.runComplete = true ∧ t = { s with upc := 11#5, st := .burstSending }) ∨
    (s.runComplete = false ∧ t = { s with upc := 9#5, st := .cycleWaiting }) := by
  cases h
  by_cases hf : s.runComplete = true
  · exact .inl ⟨hf, by simp [State.setUpc, hf, stOf]⟩
  · exact .inr ⟨by simpa using hf, by simp [State.setUpc, hf, stOf]⟩

theorem execHalt_next {s t : State} (h : execHalt s = .next t) :
    t = { s with
      trace := s.trace ++ [.release (ns s.now)]
      out := { s.out with txRelease := true }
      st := .done
      upc := 11#5 } := by
  cases h; rfl

end Sys2Proof.Machine
end

