-- ==== Sys2Proof/Laws/Frame.lean ====
section
/-!
SUPPORT. The frame of the spec, byte by byte: where each field of `frameImage` stands, and what a rewrite of a counter
field makes of a buffer that holds it.
-/
namespace Sys2Proof.Safety

open Sys2Proof.Machine

/-- The part of the frame before the counters (30 R71, R72). -/
def frameHeader (p : Params) (c : Cfg) : List Byte :=
  netBytes 6 c.destMac.toNat ++ netBytes 6 c.srcMac.toNat
    ++ (if c.vlanTagged then netBytes 2 p.tpid.toNat ++ netBytes 2 (tci c).toNat else [])
    ++ netBytes 2 c.ethertype.toNat

theorem frameHeader_length (p : Params) (c : Cfg) : (frameHeader p c).length = headerLen c := by
  unfold frameHeader headerLen Config.hdrTagged Config.hdrUntagged
  split <;> simp

theorem frameImage_eq (p : Params) (c : Cfg) (q f : BitVec 32) :
    frameImage p c q f = frameHeader p c ++ netBytes 4 q.toNat ++ netBytes 4 f.toNat
      ++ List.replicate (liveLen c - offPad c) 0#8 := by
  unfold frameImage frameHeader; rfl

/-- What stands at each offset of the frame. -/
theorem frameImage_getElem? (p : Params) (c : Cfg) (q f : BitVec 32) (a : Nat) :
    (frameImage p c q f)[a]? =
      if a < headerLen c then (frameHeader p c)[a]?
      else if a < headerLen c + 4 then (netBytes 4 q.toNat)[a - headerLen c]?
      else if a < headerLen c + 8 then (netBytes 4 f.toNat)[a - headerLen c - 4]?
      else if a < headerLen c + 8 + (liveLen c - offPad c) then some 0#8 else none := by
  rw [frameImage_eq]
  simp only [List.getElem?_append, List.length_append, frameHeader_length, netBytes_length, List.getElem?_replicate]
  grind

/-- The frame of a checked configuration is as long as the live part (20 R49). -/
theorem frameImage_length {p : Params} {c : Cfg} {q f : BitVec 32} (h : firstConfigError c = none) :
    (frameImage p c q f).length = liveLen c := by
  have h1 := liveLen_bounds h
  have h2 := headerLen_cases c
  simp only [frameImage_eq, List.length_append, frameHeader_length, netBytes_length, List.length_replicate, offPad]
  omega

/-- A buffer that holds the frame, after its frame counter was rewritten. -/
theorem frameImage_rewriteFrm {p : Params} {c : Cfg} {q f : BitVec 32} {m : Memory}
    (h : ∀ a, m.read a = (frameImage p c q f)[a]?) (f' : BitVec 32) (a : Nat) :
    (m.writeBytes (offFrm c) (netBytes 4 f'.toNat)).read a = (frameImage p c q f')[a]? := by
  rw [read_memWritten, h, frameImage_getElem?, frameImage_getElem?]
  unfold offFrm
  grind

/-- A buffer that holds the frame, after its sequence counter was rewritten. -/
theorem frameImage_rewriteSeq {p : Params} {c : Cfg} {q f : BitVec 32} {m : Memory}
    (h : ∀ a, m.read a = (frameImage p c q f)[a]?) (q' : BitVec 32) (a : Nat) :
    (m.writeBytes (offSeq c) (netBytes 4 q'.toNat)).read a = (frameImage p c q' f)[a]? := by
  rw [read_memWritten, h, frameImage_getElem?, frameImage_getElem?]
  unfold offSeq
  grind

end Sys2Proof.Safety
end

