-- ==== Sys2Proof/Laws/PerInstr.lean ====
section
/-!
SUPPORT. A family of facts about the operations as syntax, one lemma per constructor: an operation is well formed, its
word is a well-formed control word, and the word is of the form the operation's issuer presents (30_encoding R79 to R82).
-/
namespace Sys2Proof.Laws.EncodeWellFormed

/-- What is stated of each operation. -/
def Statement (i : Instr) : Prop :=
  i.wellFormed = true ∧ (encode i).wellFormed = true ∧
    ((∃ w, encode i = .command w) ↔ i.issuer = .host)

theorem of_command {i : Instr} {w : Word} (h : encode i = .command w) (hi : i.wellFormed = true)
    (hw : (Encoded.command w).wellFormed = true) (hh : i.issuer = .host) : Statement i :=
  ⟨hi, by rw [h]; exact hw, ⟨fun _ => hh, fun _ => ⟨w, h⟩⟩⟩

theorem of_micro {i : Instr} {b : Byte} (h : encode i = .micro b) (hi : i.wellFormed = true)
    (hw : (Encoded.micro b).wellFormed = true) (hh : i.issuer ≠ .host) : Statement i :=
  ⟨hi, by rw [h]; exact hw, ⟨fun ⟨_, e⟩ => (by rw [h] at e; cases e), fun e => absurd e hh⟩⟩

theorem nop : Statement .nop := of_command rfl rfl (by decide) rfl
theorem validate : Statement .validate := of_command rfl rfl (by decide) rfl
theorem build : Statement .build := of_command rfl rfl (by decide) rfl
theorem run : Statement .run := of_command rfl rfl (by decide) rfl
theorem fbZero : Statement .fbZero := of_micro rfl rfl (by decide) (by decide)
theorem fbWrDmac : Statement .fbWrDmac := of_micro rfl rfl (by decide) (by decide)
theorem fbWrSmac : Statement .fbWrSmac := of_micro rfl rfl (by decide) (by decide)
theorem fbWrTag : Statement .fbWrTag := of_micro rfl rfl (by decide) (by decide)
theorem fbWrEtype : Statement .fbWrEtype := of_micro rfl rfl (by decide) (by decide)
theorem arm : Statement .arm := of_micro rfl rfl (by decide) (by decide)
theorem wait : Statement .wait := of_micro rfl rfl (by decide) (by decide)
theorem advance : Statement .advance := of_micro rfl rfl (by decide) (by decide)
theorem finc : Statement .finc := of_micro rfl rfl (by decide) (by decide)
theorem frst : Statement .frst := of_micro rfl rfl (by decide) (by decide)
theorem sinc : Statement .sinc := of_micro rfl rfl (by decide) (by decide)
theorem send : Statement .send := of_micro rfl rfl (by decide) (by decide)
theorem bloop : Statement .bloop := of_micro rfl rfl (by decide) (by decide)
theorem tchk : Statement .tchk := of_micro rfl rfl (by decide) (by decide)
theorem halt : Statement .halt := of_micro rfl rfl (by decide) (by decide)

end Sys2Proof.Laws.EncodeWellFormed
end

