-- ==== Sys2Proof/Laws/Step.lean ====
section
/-!
SUPPORT. Once, all a step can do: which move it is, and which operation it executes at which place of the micro-program.
-/
namespace Sys2Proof.Machine

/-- The operations at the places of the micro-program. -/
def romPlaces : SeqIncPhase → List (BitVec 5 × Instr)
  | .afterBurst =>
    [(0#5, .arm), (1#5, .wait), (2#5, .advance), (3#5, .finc), (4#5, .send), (5#5, .bloop), (6#5, .frst),
     (7#5, .sinc), (8#5, .tchk), (9#5, .wait), (10#5, .advance), (11#5, .halt)]
  | .beforeBurst =>
    [(0#5, .arm), (1#5, .wait), (2#5, .advance), (3#5, .sinc), (4#5, .finc), (5#5, .send), (6#5, .bloop),
     (7#5, .frst), (8#5, .tchk), (9#5, .wait), (10#5, .advance), (11#5, .halt)]

/-- Whether the word at a place decodes to the operation listed for that place, and a word stands exactly at the first
twelve places. -/
def placeAgrees (p : SeqIncPhase) (u : BitVec 5) : Bool :=
  match romAt p u with
  | some b =>
    match decodeMicro b with
    | .ok i => decide (u.toNat < 12) && (romPlaces p).contains (u, i)
    | .error _ => false
  | none => decide (12 ≤ u.toNat)

theorem placeAgrees_all (p : SeqIncPhase) : ∀ u : BitVec 5, placeAgrees p u = true := by
  cases p <;> decide

/-- What the sequencer fetches and decodes is a place of the micro-program. -/
theorem fetched_place (p : SeqIncPhase) (u : BitVec 5) (b : Byte) (i : Instr) (hb : romAt p u = some b)
    (hi : decodeMicro b = .ok i) : (u, i) ∈ romPlaces p := by
  have := placeAgrees_all p u
  simp only [placeAgrees, hb, hi, Bool.and_eq_true, List.contains_iff_mem] at this
  exact this.2

/-- At the first twelve values of `upc` a word is fetched, and it decodes (44 R123). -/
theorem romAt_of_lt (p : SeqIncPhase) (u : BitVec 5) (h : u.toNat < 12) :
    ∃ b i, romAt p u = some b ∧ decodeMicro b = .ok i := by
  have := placeAgrees_all p u
  unfold placeAgrees at this
  split at this
  · split at this
    · exact ⟨_, _, by assumption, by assumption⟩
    · cases this
  · simp only [decide_eq_true_eq] at this; omega

/-- All that a format M word can do. -/
theorem runMicroWord_next {b : Byte} {s t : State} :
    runMicroWord b s = .next t ↔ ∃ i, decodeMicro b = .ok i ∧ exec i s = .next t := by
  unfold runMicroWord
  split <;> rename_i h <;> simp [h]

/-- All that the sequencer's step can do. -/
theorem seqStep_next {s t : State} (h : seqStep s = .next t) :
    (stRuns s.st = false ∧ t = s) ∨
    (stRuns s.st = true ∧ ∃ b i, romAt s.params.seqIncPhase s.upc = some b ∧ decodeMicro b = .ok i ∧
      (s.upc, i) ∈ romPlaces s.params.seqIncPhase ∧ exec i s = .next t) := by
  unfold seqStep at h
  split at h
  · rename_i hr
    refine .inr ⟨hr, ?_⟩
    unfold fetchMicroWord at h
    split at h
    · rename_i b hb
      obtain ⟨i, hi, he⟩ := runMicroWord_next.1 h
      exact ⟨b, i, hb, hi, fetched_place _ _ _ _ hb hi, he⟩
    · cases h
  · rename_i hr
    exact .inl ⟨by simpa using hr, by cases h; rfl⟩

/-- All that a write to `CMD` can do. -/
theorem writeCommand_next {w : Word} {s t : State} (h : writeCommand w s = .next t) :
    (∃ i, i ∈ [Instr.nop, .validate, .build, .run] ∧ exec i s = .next t) ∨ t = { s with cmdRej := true } := by
  unfold writeCommand at h
  split at h
  · rename_i i hi
    refine .inl ⟨i, ?_, h⟩
    unfold decodeCommand at hi
    split at hi
    · split at hi
      · rename_i j hj
        cases hi
        simp only [hostOpcodes, lookupOpcode] at hj
        repeat' split at hj
        all_goals simp_all
      · cases hi
    · cases hi
  · exact .inr (by simpa [reject, eq_comm] using h)

/-- All that a host write can do. -/
theorem hostWrite_next {a : BitVec 12} {w : Word} {s t : State} (h : hostWrite a w s = .next t) :
    (∃ i, i ∈ [Instr.nop, .validate, .build, .run] ∧ exec i s = .next t) ∨ t = { s with cmdRej := true } ∨
    (s.st = .idle ∧ s.cfgValid = false ∧ ∃ c, t = { s with cfg := c }) ∨ t = s := by
  unfold hostWrite at h
  split at h
  · rcases writeCommand_next h with h | h
    · exact .inl h
    · exact .inr (.inl h)
  · rename_i r _
    simp only [Host.Outcome.next.injEq] at h
    subst h
    unfold writeReg
    split
    · rename_i hu
      simp only [State.unlocked, Bool.and_eq_true, decide_eq_true_eq, Bool.not_eq_true'] at hu
      exact .inr (.inr (.inl ⟨hu.1, hu.2, _, rfl⟩))
    · exact .inr (.inr (.inr rfl))

/-- All that a host read can do. -/
theorem hostRead_next {a : BitVec 12} {s t : State} (h : hostRead a s = .next t) :
    ∃ w, hostReadWord s a = some w ∧ t = { s with out := { s.out with hRdata := some w } } := by
  unfold hostRead at h
  split at h
  · rename_i w hw; exact ⟨w, hw, by cases h; rfl⟩
  · cases h

/-- All that a step can do, by the move it is: a word alone in the slot, a move of the agenda, or a free step of CLOCK
and the sequencer's. -/
theorem step_next {s t : State} (h : step s = .next t) :
    (∃ b, s.microSlot = some b ∧ runMicroWord b { s.beginStep with microSlot := none } = .next t) ∨
    (s.microSlot = none ∧ ∃ m rest, s.agenda = m :: rest ∧ perform m { s.beginStep with agenda := rest } = .next t) ∨
    (s.microSlot = none ∧ s.agenda = [] ∧ seqStep s.beginStep.clockTick = .next t) := by
  unfold step nextMove at h
  simp only [State.beginStep_microSlot, State.beginStep_agenda] at h
  split at h
  · rename_i b hb; exact .inl ⟨b, hb, h⟩
  · rename_i hb
    split at h
    · rename_i m rest hm; exact .inr (.inl ⟨hb, m, rest, hm, h⟩)
    · rename_i hm; exact .inr (.inr ⟨hb, hm, h⟩)

/-- The state a move starts from: the outputs quiet, the move taken from the agenda or, with none listed, CLOCK's free
step made. -/
structure MoveStart (s s1 : State) : Prop where
  eq : s1 = { s with agenda := s1.agenda, clockDraws := s1.clockDraws, now := s1.now, out := Ports.quiet }
  agenda : s1.agenda = s.agenda.tail
  clock : ns s.now ≤ ns s1.now
  listed : s.agenda ≠ [] → s1.now = s.now ∧ s1.clockDraws = s.clockDraws

/-- All that one move can do to the state it starts from, where no word stands in the slot. -/
inductive MoveEffect (s : State) (s1 : State) : State → Prop where
  | held (h : (∃ a w, s.agenda.head? = some (.hostWrite a w)) ∨ stRuns s1.st = false) : MoveEffect s s1 s1
  | rst (h : s.agenda.head? = some .rst) : MoveEffect s s1 s1.doReset
  | clock (t : Timestamp) (h : s.agenda.head? = some (.clock t)) : MoveEffect s s1 { s1 with now := t }
  | sink (o : TxAnswer) (h : s.agenda.head? = some (.sink o)) :
      MoveEffect s s1 { s1 with sinkQueue := s1.sinkQueue ++ [o] }
  | read (a : BitVec 12) (w : Word) (h : s.agenda.head? = some (.hostRead a)) :
      MoveEffect s s1 { s1 with out := { s1.out with hRdata := some w } }
  | rejected (h : ∃ a w, s.agenda.head? = some (.hostWrite a w)) : MoveEffect s s1 { s1 with cmdRej := true }
  | config (c : Cfg) (h : ∃ a w, s.agenda.head? = some (.hostWrite a w)) (hi : s1.st = .idle)
      (hv : s1.cfgValid = false) : MoveEffect s s1 { s1 with cfg := c }
  | command (i : Instr) (t : State) (h : ∃ a w, s.agenda.head? = some (.hostWrite a w))
      (hi : i ∈ [Instr.nop, .validate, .build, .run]) (he : exec i s1 = .next t) : MoveEffect s s1 t
  | micro (i : Instr) (t : State) (hr : stRuns s1.st = true) (hm : s.agenda.head? = some .seq ∨ s.agenda = [])
      (hi : (s1.upc, i) ∈ romPlaces s1.params.seqIncPhase) (he : exec i s1 = .next t) : MoveEffect s s1 t

/-- All that a step can do, where no word stands in the slot, said once over what each move writes. -/
theorem step_effect {s t : State} (hs : s.microSlot = none) (h : step s = .next t) :
    ∃ s1, MoveStart s s1 ∧ MoveEffect s s1 t := by
  rcases step_next h with ⟨b, hb, -⟩ | ⟨-, m, rest, hm, hp⟩ | ⟨-, hm, hp⟩
  · rw [hs] at hb; cases hb
  · refine ⟨{ s.beginStep with agenda := rest }, ⟨rfl, by simp [hm], Nat.le_refl _, fun _ => ⟨rfl, rfl⟩⟩, ?_⟩
    have hd : s.agenda.head? = some m := by simp [hm]
    unfold perform at hp
    split at hp
    · cases hp; exact .rst hd
    · rcases hostWrite_next hp with ⟨i, hi, he⟩ | h | ⟨h1, h2, c, h⟩ | h
      · exact .command i _ ⟨_, _, hd⟩ hi he
      · subst h; exact .rejected ⟨_, _, hd⟩
      · subst h; exact .config c ⟨_, _, hd⟩ h1 h2
      · subst h; exact .held (.inl ⟨_, _, hd⟩)
    · obtain ⟨w, -, h⟩ := hostRead_next hp
      subst h; exact .read _ w hd
    · cases hp; exact .clock _ hd
    · cases hp; exact .sink _ hd
    · rcases seqStep_next hp with ⟨h0, h⟩ | ⟨h1, b, i, -, -, h2, h3⟩
      · subst h; exact .held (.inr h0)
      · exact .micro i _ h1 (.inl hd) h2 h3
  · refine ⟨s.beginStep.clockTick, ⟨rfl, by simp [hm, State.clockTick, State.beginStep], drawnTime_ge s,
      fun h => absurd hm h⟩, ?_⟩
    rcases seqStep_next hp with ⟨h0, h⟩ | ⟨h1, b, i, -, -, h2, h3⟩
    · subst h; exact .held (.inr h0)
    · exact .micro i _ h1 (.inr hm) h2 h3

end Sys2Proof.Machine
end

