-- ==== Sys2Proof/Tests/Slice0.lean ====
section
/-!
SUPPORT. The model's own tests. Expected values come from spec/95_test_vectors.md (the vector is named at each test) or
from the table a test names; none is the model's own answer. Then a witness for the hypotheses of each statement.
-/
namespace Sys2Proof.Tests.Slice0

open Sys2Proof Sys2Proof.Machine Sys2Proof.Safety

/-! ### Helpers -/

/-- The configuration of V1, bounded as in P1. -/
def cfgA : Cfg where
  ethertype := 0x88B5#16
  vlanTagged := false
  vlanId := 0#16
  vlanPcp := 0#8
  frameSize := 64#16
  burstSize := 1#32
  nBurstsEn := true
  nBursts := 5#32
  cycleTimeNs := 1000000#64
  destMac := 0x01005E000001#48
  srcMac := 0x021122334455#48

/-- The configuration of V2, bounded as in P2. -/
def cfgB : Cfg where
  ethertype := 0x88B5#16
  vlanTagged := true
  vlanId := 10#16
  vlanPcp := 5#8
  frameSize := 68#16
  burstSize := 3#32
  nBurstsEn := true
  nBursts := 2#32
  cycleTimeNs := 250000#64
  destMac := 0xFFFFFFFFFFFF#48
  srcMac := 0x021122334455#48

/-- After reset, with a configuration written. -/
def opened (c : Cfg) : State := { State.reset with cfg := c }

/-- After VALIDATE. -/
def locked (c : Cfg) : State := { opened c with cfgValid := true }

/-- A list of bytes from an offset up. -/
def listed : List Byte → Nat → Memory
  | [], _ => []
  | b :: bs, a => (a, b) :: listed bs (a + 1)

/-- After BUILD, with the counters at `q` and `f`. -/
def builtAt (c : Cfg) (q f : BitVec 32) : State :=
  { locked c with built := true, seqId := q, frameId := f, fb := listed (frameImage Params.default c q f) 0 }

/-- P1 in the middle: the sequencer at `u` with the counters at `q` and `f`, 20 ns after the deadline
(5, 4_000_000), which the deadline already set is one period past. -/
def runningA (u : BitVec 5) (st : St) (q f : BitVec 32) : State :=
  { builtAt cfgA q f with
    st := st
    upc := u
    periodNs := 1000000#64
    nextDeadline := ⟨5#64, 5000000#32⟩
    now := ⟨5#64, 4000020#32⟩
    agenda := [.seq]
    sinkQueue := [.wouldBlock] }

/-- A property of the next state, false where there is none. -/
def after (r : Result) (p : State → Bool) : Bool :=
  match r with
  | .next t => p t
  | .fault _ => false
  | .refused _ => false

/-! ### Well-formedness: each check refuses an ill-formed term -/

theorem test_wf_command_zero_field : commandZeroField 0x00000101#32 = false ∧ commandZeroField 0x80000000#32 = false := by
  decide
theorem test_wf_command_opcode : commandOpcodeKnown 0x00000004#32 = false ∧ commandOpcodeKnown 0x00000003#32 = true := by
  decide
theorem test_wf_micro_class : microClassKnown 0x40#8 = false ∧ microClassKnown 0x00#8 = false := by decide
theorem test_wf_micro_function : microFunctionKnown 0x15#8 = false ∧ microFunctionKnown 0x23#8 = false ∧
    microFunctionKnown 0x33#8 = false ∧ microFunctionKnown 0x3E#8 = false := by decide
theorem test_wf_rom_entry : romEntryWellFormed 0x10#8 = false ∧ romEntryWellFormed 0x3F#8 = true := by decide
theorem test_wf_rom : romWellFormed (List.replicate 11 0x3F#8) = false ∧ romWellFormed (rom .afterBurst) = true ∧
    romWellFormed (rom .beforeBurst) = true := by decide
theorem test_wf_encoded : (Encoded.command 0x20#32).wellFormed = false ∧ (Encoded.micro 0x03#8).wellFormed = false := by
  decide

/-! ### Decoding: every operation's word, from 30 R81 and R82 bit by bit -/

theorem test_decode_host :
    decodeCommand 0b00000000000000000000000000000000#32 = .ok .nop ∧
    decodeCommand 0b00000000000000000000000000000001#32 = .ok .validate ∧
    decodeCommand 0b00000000000000000000000000000010#32 = .ok .build ∧
    decodeCommand 0b00000000000000000000000000000011#32 = .ok .run := by decide
theorem test_decode_builder :
    decodeMicro 0b00010000#8 = .ok .fbZero ∧ decodeMicro 0b00010001#8 = .ok .fbWrDmac ∧
    decodeMicro 0b00010010#8 = .ok .fbWrSmac ∧ decodeMicro 0b00010011#8 = .ok .fbWrTag ∧
    decodeMicro 0b00010100#8 = .ok .fbWrEtype := by decide
theorem test_decode_scheduler :
    decodeMicro 0b00100000#8 = .ok .arm ∧ decodeMicro 0b00100001#8 = .ok .wait ∧
    decodeMicro 0b00100010#8 = .ok .advance := by decide
theorem test_decode_counters :
    decodeMicro 0b00110000#8 = .ok .finc ∧ decodeMicro 0b00110001#8 = .ok .frst ∧
    decodeMicro 0b00110010#8 = .ok .sinc := by decide
theorem test_decode_loop :
    decodeMicro 0b00111000#8 = .ok .send ∧ decodeMicro 0b00111001#8 = .ok .bloop ∧
    decodeMicro 0b00111010#8 = .ok .tchk ∧ decodeMicro 0b00111111#8 = .ok .halt := by decide
/-- V11 and R83: words that encode nothing, each refused by name. -/
theorem test_decode_refuses :
    decodeCommand 0x00000004#32 = .error (.notAHostCommand 0x04#8) ∧
    decodeCommand 0x00000020#32 = .error (.notAHostCommand 0x20#8) ∧
    decodeCommand 0x00000101#32 = .error (.commandBitsNotZero 0x00000101#32) ∧
    decodeMicro 0x01#8 = .error (.reservedOpcode 0x01#8) ∧ decodeMicro 0x33#8 = .error (.reservedOpcode 0x33#8) := by
  decide
theorem test_decode_table_word : decodeTableWord 32 2 = some .build ∧ decodeTableWord 8 0x3A = some .tchk ∧
    decodeTableWord 8 0x02 = none ∧ decodeTableWord 16 0x3A = none := by decide

/-! ### Host commands -/

/-- V11, first row: NOP. -/
theorem test_nop : after (execNop (opened cfgA)) (fun t => decide (t = opened cfgA)) = true := by decide +kernel
/-- V4 rows 2 and 25: the code, `st` and `STATUS` of a failed check, and the order of the checks. -/
theorem test_validate_fails :
    after (execValidate (opened { cfgA with ethertype := 0xFFFF#16 }))
      (fun t => t.errCode == 0x01#8 && statusWord t == 0x105#32) = true ∧
    after (execValidate (opened { cfgA with vlanPcp := 8#8, vlanId := 0x1000#16 })) (fun t => t.errCode == 0x02#8) = true := by
  decide +kernel
/-- V4 rows 12, 14 and 15: the frame size at its bounds. -/
theorem test_validate_frame_size :
    after (execValidate (opened { cfgA with frameSize := 1519#16 })) (fun t => t.errCode == 0x04#8) = true ∧
    after (execValidate (opened { cfgB with frameSize := 1522#16 })) (fun t => statusWord t == 0x008#32) = true ∧
    after (execValidate (opened { cfgB with frameSize := 1523#16 })) (fun t => t.errCode == 0x04#8) = true := by
  decide +kernel
/-- V1: the window of the built buffer, and `STATUS`. -/
theorem test_build_untagged :
    after (execBuild (locked cfgA)) (fun t => (List.range 5).map (windowWord t) ==
      [some 0x01005E00#32, some 0x00010211#32, some 0x22334455#32, some 0x88B50000#32, some 0#32] &&
      statusWord t == 0x18#32) = true := by decide +kernel
/-- V2: the same for a tagged frame. -/
theorem test_build_tagged :
    after (execBuild (locked cfgB)) (fun t => (List.range 5).map (windowWord t) ==
      [some 0xFFFFFFFF#32, some 0xFFFF0211#32, some 0x22334455#32, some 0x8100A00A#32, some 0x88B50000#32]) = true := by
  decide +kernel
/-- V11: RUN accepted, and RUN rejected while a run is on. -/
theorem test_run :
    after (execRun (builtAt cfgA 0#32 0#32)) (fun t => statusWord t == 0x19#32 && t.upc == 0#5) = true ∧
    after (execRun (runningA 4#5 .burstSending 2#32 1#32)) (fun t => t.cmdRej && t.upc == 4#5) = true := by
  decide +kernel

/-! ### The frame builder -/

/-- R97: the live part ends at `L = 60`. -/
theorem test_fb_zero : after (execFbZero (locked cfgA)) (fun t => t.fb.read 0 == some 0#8 && t.fb.read 59 == some 0#8 &&
    t.fb.read 60 == none) = true := by decide +kernel
/-- V1: the destination address. -/
theorem test_fb_wr_dmac : after (execFbWrDmac (locked cfgA)) (fun t => t.fb.readBytes 0 6 ==
    some [0x01#8, 0x00#8, 0x5E#8, 0x00#8, 0x00#8, 0x01#8] && t.fb.read 6 == none) = true := by decide +kernel
/-- V1: the source address. -/
theorem test_fb_wr_smac : after (execFbWrSmac (locked cfgA)) (fun t => t.fb.readBytes 6 6 ==
    some [0x02#8, 0x11#8, 0x22#8, 0x33#8, 0x44#8, 0x55#8] && t.fb.read 5 == none) = true := by decide +kernel
/-- V3: PCP 7 and VID 0x0FFF give `ef ff`, bit 12 staying 0; untagged, nothing is written. -/
theorem test_fb_wr_tag :
    after (execFbWrTag (locked { cfgB with vlanPcp := 7#8, vlanId := 0x0FFF#16 })) (fun t => t.fb.readBytes 12 4 ==
      some [0x81#8, 0x00#8, 0xEF#8, 0xFF#8]) = true ∧
    after (execFbWrTag (locked { cfgA with vlanPcp := 5#8, vlanId := 10#16 })) (fun t => t.fb == []) = true := by
  decide +kernel
/-- V1, V2: the EtherType at 12 untagged and at 16 tagged. -/
theorem test_fb_wr_etype :
    after (execFbWrEtype (locked cfgA)) (fun t => t.fb == [(12, 0x88#8), (13, 0xB5#8)]) = true ∧
    after (execFbWrEtype (locked cfgB)) (fun t => t.fb == [(16, 0x88#8), (17, 0xB5#8)]) = true := by decide +kernel
/-- V13: the byte order of `MemWrite` and `MemRead`. -/
theorem test_byte_order :
    after (memWrite 18 4 0x01020304 State.reset) (fun t => t.fb.readBytes 18 4 == some [1#8, 2#8, 3#8, 4#8] &&
      t.fb.memRead 18 4 == some 0x01020304 && t.fb.memRead 20 2 == some 0x0304 && t.fb.memRead 19 1 == some 2) = true := by
  decide +kernel

/-! ### The cycle scheduler -/

/-- V5, the rows with `now` (5, 300_000) and (1, 333_333_333's row). -/
theorem test_arm :
    after (execArm { locked cfgA with now := ⟨5#64, 300000#32⟩ }) (fun t => t.nextDeadline == ⟨5#64, 2000000#32⟩ &&
      t.periodNs == 1000000#64 && t.upc == 1#5) = true ∧
    after (execArm { locked { cfgA with cycleTimeNs := 333333333#64 } with now := ⟨1#64, 0#32⟩ })
      (fun t => t.nextDeadline == ⟨1#64, 666666665#32⟩) = true := by decide +kernel
/-- V5, the last row: `F_ARM_OVF`. -/
theorem test_arm_overflow :
    after (execArm { builtAt { cfgA with cycleTimeNs := 1000000000#64 } 0#32 0#32 with
        now := ⟨0xFFFFFFFFFFFFFFFF#64, 0#32⟩, st := .arming })
      (fun t => t.errCode == 0x20#8 && t.st == .error && t.upc == 0#5 && t.periodNs == 0#64) = true := by decide +kernel
/-- V6, its first rows: held one nanosecond early, enabled at equality. -/
theorem test_wait :
    after (execWait { runningA 1#5 .arming 0#32 0#32 with nextDeadline := ⟨5#64, 2000000#32⟩, now := ⟨5#64, 1999999#32⟩ })
      (fun t => t.upc == 1#5) = true ∧
    after (execWait { runningA 9#5 .cycleWaiting 1#32 0#32 with
        nextDeadline := ⟨5#64, 2000000#32⟩, now := ⟨5#64, 2000000#32⟩ })
      (fun t => t.upc == 10#5 && t.st == .cycleWaiting) = true := by decide +kernel
/-- V7, the rows with three carried seconds and with the largest period. -/
theorem test_advance :
    after (execAdvance { runningA 2#5 .arming 0#32 0#32 with
        nextDeadline := ⟨5#64, 999500000#32⟩, periodNs := 2500000000#64 })
      (fun t => t.nextDeadline == ⟨8#64, 499500000#32⟩ && t.upc == 3#5 && t.st == .burstSending) = true ∧
    after (execAdvance { runningA 10#5 .cycleWaiting 0#32 0#32 with
        nextDeadline := ⟨3#64, 0#32⟩, periodNs := 0xFFFFFFFFFFFFFFFF#64 })
      (fun t => t.nextDeadline == ⟨18446744076#64, 709551615#32⟩) = true := by decide +kernel
/-- V7, the last row: `F_ADVANCE_OVF`. -/
theorem test_advance_overflow :
    after (execAdvance { runningA 10#5 .cycleWaiting 0#32 0#32 with
        nextDeadline := ⟨0xFFFFFFFFFFFFFFFF#64, 999999999#32⟩, periodNs := 1#64 })
      (fun t => t.errCode == 0x21#8 && t.st == .error && t.upc == 10#5) = true := by decide +kernel

/-! ### The counter engine -/

/-- V8: FINC from 0x12345677, untagged, and from 0, tagged. -/
theorem test_finc :
    after (execFinc (runningA 3#5 .burstSending 0#32 0x12345677#32)) (fun t => t.frameId == 0x12345678#32 &&
      t.fb.readBytes 18 4 == some [0x12#8, 0x34#8, 0x56#8, 0x78#8] && t.upc == 4#5) = true ∧
    after (execFinc (builtAt cfgB 0#32 0#32)) (fun t => t.fb.readBytes 22 4 == some [0#8, 0#8, 0#8, 1#8]) = true := by
  decide +kernel
/-- V8: FRST from 3. -/
theorem test_frst : after (execFrst (runningA 6#5 .burstSending 0#32 3#32)) (fun t => t.frameId == 0#32 && t.upc == 7#5 &&
    t.fb.readBytes 18 4 == some [0#8, 0#8, 0#8, 0#8]) = true := by decide +kernel
/-- V8: SINC from 0x00FFFFFF, and the wrap from 0xFFFFFFFF. -/
theorem test_sinc :
    after (execSinc (runningA 7#5 .burstSending 0x00FFFFFF#32 0#32)) (fun t => t.fb.readBytes 14 4 ==
      some [1#8, 0#8, 0#8, 0#8] && !t.seqWrapped && t.upc == 8#5) = true ∧
    after (execSinc (runningA 7#5 .burstSending 0xFFFFFFFF#32 0#32)) (fun t => t.seqId == 0#32 && t.seqWrapped &&
      t.fb.readBytes 14 4 == some [0#8, 0#8, 0#8, 0#8]) = true := by decide +kernel

/-! ### The transmission loop -/

/-- V10: the bytes, the outcome and the time of a hand-over. -/
theorem test_send :
    after (execSend { runningA 4#5 .burstSending 0#32 1#32 with now := ⟨5#64, 2000020#32⟩ }) (fun t => t.upc == 5#5 &&
      t.trace == [.tx ([0x01#8, 0x00#8, 0x5E#8, 0x00#8, 0x00#8, 0x01#8, 0x02#8, 0x11#8, 0x22#8, 0x33#8, 0x44#8, 0x55#8,
        0x88#8, 0xB5#8, 0#8, 0#8, 0#8, 0#8, 0#8, 0#8, 0#8, 1#8] ++ List.replicate 38 0#8) .wouldBlock 5002000020])
      = true := by decide +kernel
/-- V9: BLOOP with frames left and with the burst complete. -/
theorem test_bloop :
    after (execBloop { runningA 5#5 .burstSending 0#32 1#32 with cfg := cfgB }) (fun t => t.upc == 3#5) = true ∧
    after (execBloop (runningA 5#5 .burstSending 0#32 1#32)) (fun t => t.upc == 6#5 && t.st == .burstSending) = true := by
  decide +kernel
/-- V9: TCHK below the bound and at it. -/
theorem test_tchk :
    after (execTchk (runningA 8#5 .burstSending 4#32 0#32)) (fun t => t.upc == 9#5 && t.st == .cycleWaiting) = true ∧
    after (execTchk (runningA 8#5 .burstSending 5#32 0#32)) (fun t => t.upc == 11#5 && t.st == .burstSending) = true := by
  decide +kernel
/-- V9: TCHK with the bound ignored. -/
theorem test_tchk_unbounded :
    after (execTchk { runningA 8#5 .burstSending 5#32 0#32 with cfg := { cfgA with nBurstsEn := false } })
      (fun t => t.upc == 9#5) = true := by decide +kernel
/-- V10: HALT, the release and `STATUS`. -/
theorem test_halt : after (execHalt (runningA 11#5 .burstSending 5#32 0#32)) (fun t => t.trace == [.release 5004000020] &&
    statusWord t == 0x9C#32 && t.upc == 11#5 && t.out.txRelease) = true := by decide +kernel

/-! ### The register file, reset, and how a word is presented -/

/-- V12: reserved bits dropped, an unaligned address, and a write refused once locked. -/
theorem test_register_write :
    after (hostWrite 0x014#12 0xFF05000A#32 State.reset) (fun t => hostReadWord t 0x014#12 == some 0x0005000A#32) = true ∧
    after (hostWrite 0x012#12 0x0000FFFE#32 State.reset) (fun t => t.cfg.ethertype == 0xFFFE#16) = true ∧
    after (hostWrite 0x034#12 0x12340100#32 State.reset) (fun t => hostReadWord t 0x034#12 == some 0x100#32) = true ∧
    after (hostWrite 0x020#12 7#32 (locked cfgA)) (fun t => decide (t = locked cfgA)) = true := by decide +kernel
/-- V12 and P1's end state: `FB_LEN`, the window while the sequencer runs and after it. -/
theorem test_register_read :
    hostReadWord (locked { cfgB with frameSize := 1522#16 }) 0x05C#12 = some 0x5EE#32 ∧
    hostReadWord (runningA 4#5 .burstSending 2#32 1#32) 0x80C#12 = some 0#32 ∧
    hostReadWord { builtAt cfgA 5#32 0#32 with st := .done } 0x810#12 = some 0x00050000#32 := by decide +kernel
/-- V14: reset in the middle of P1. -/
theorem test_reset_move :
    after (step { runningA 4#5 .burstSending 2#32 1#32 with agenda := [.rst], trace := [.release 0] }) (fun t =>
      statusWord t == 0#32 && t.upc == 0#5 && t.seqId == 0#32 && t.fb == [] && t.trace == [.release 0]) = true := by
  decide +kernel
/-- V11: words that encode no command set `cmd_rej` and nothing else. -/
theorem test_command_rejected :
    after (step { State.reset with agenda := [.hostWrite 0x000#12 0x20#32] })
      (fun t => decide (t = { State.reset with cmdRej := true })) = true := by decide +kernel
theorem test_present_command : after (step (State.reset.withFetchWord 32 0x01)) (fun t => t.errCode == 0x04#8) = true := by
  decide +kernel
theorem test_present_builder : after (step (State.reset.withFetchWord 8 0x14)) (fun t => t.fb == [(12, 0#8), (13, 0#8)]) =
    true := by decide +kernel
theorem test_present_sequencer : after (step (State.reset.withFetchWord 8 0x32)) (fun t => t.seqId == 1#32) = true ∧
    after (step (State.reset.withFetchWord 8 0x3F)) (fun t => t.done) = true := by decide +kernel
theorem test_present_reserved :
    step (State.reset.withFetchWord 8 0x33) = .refused (.reservedMicroWord 0x33#8) := rfl

/-- 92, annex to D9: with SINC before the burst, the micro-program starts a burst at SINC and counts at 4. -/
theorem test_before_burst :
    after (execSinc { runningA 3#5 .burstSending 0#32 0#32 with params := { Params.default with seqIncPhase := .beforeBurst } })
      (fun t => t.upc == 4#5 && fetchMicroWord t == some 0x30#8) = true := by decide +kernel

/-! ### The invariants hold of states in the middle of a run -/

theorem listed_read (bs : List Byte) (k a : Nat) :
    Memory.read (listed bs k) a = if k ≤ a then bs[a - k]? else none := by
  induction bs generalizing k with
  | nil => simp [listed]
  | cons b bs ih => simp only [listed, Memory.read_cons, ih]; grind

theorem listed_canonical (c : Cfg) (q f : BitVec 32) (h : (frameImage Params.default c q f).length ≤ Config.fbCapacity) :
    (listed (frameImage Params.default c q f) 0).wf = true := by
  have : ∀ (bs : List Byte) (k : Nat), k + bs.length ≤ Config.fbCapacity → Memory.wfFrom k (listed bs k) = true := by
    intro bs
    induction bs with
    | nil => intro k _; rfl
    | cons b bs ih =>
      intro k hk
      simp only [List.length_cons] at hk
      simp only [listed, Memory.wfFrom, Bool.and_eq_true, decide_eq_true_eq]
      exact ⟨⟨Nat.le_refl _, by omega⟩, ih (k + 1) (by omega)⟩
  exact this _ 0 (by omega)

/-- P1 at step 21: about to hand over the third frame. -/
def sending : State := runningA 4#5 .burstSending 2#32 1#32

theorem cfgA_checked : firstConfigError cfgA = none := by decide

theorem sending_ordered : Ordered sending := ⟨rfl, fun _ => cfgA_checked, fun _ => rfl, fun _ => rfl⟩

theorem frame_runningA (u : BitVec 5) (st : St) (q f : BitVec 32) : FrameInv (runningA u st q f) where
  slotEmpty := rfl
  validIsChecked := fun _ => cfgA_checked
  builtIsValid := fun _ => rfl
  runsIsBuilt := fun _ => rfl
  canonical := listed_canonical cfgA q f (by
    rw [frameImage_length cfgA_checked]; exact (liveLen_bounds cfgA_checked).2)
  unbuiltIsEmpty := fun h => by cases h
  builtIsFrame := fun _ a => by
    show Memory.read (listed (frameImage Params.default cfgA q f) 0) a = _
    rw [listed_read]; simp; rfl

theorem wit_FrameInv : FrameInv sending := frame_runningA _ _ _ _

theorem wit_SequencerInv : SequencerInv sending :=
  ⟨sending_ordered, by decide, by decide, fun _ => ⟨by decide, by decide, (by decide : (2 : Nat) < 5)⟩, by decide,
    fun h => (by cases h), by decide, by decide, by decide⟩

theorem wit_ScheduleInv : ScheduleInv sending := ⟨sending_ordered, by decide, by decide +kernel, by decide⟩

theorem wit_TimingInv : TimingInv sending := ⟨rfl, rfl, by decide, by decide, by decide +kernel⟩

/-! ### Witnesses for the hypotheses of the statements -/

theorem wit_DecodedWordIsTheEncoding : decode (.command 3#32) = .ok .run ∧ decode (.micro 0x3A#8) = .ok .tchk := by decide
theorem wit_MicroProgramOfDefaultPhase : 12 ≤ (12#5).toNat ∧ 12 ≤ (31#5).toNat := by decide
theorem wit_StepRunsTheFetchedOperation :
    (sending.microSlot = none ∧ sending.agenda = [.seq] ∧ stRuns sending.st = true ∧
      romAt sending.params.seqIncPhase sending.upc = some 0x38#8 ∧ decodeMicro 0x38#8 = .ok .send) ∧
    ({ State.reset with agenda := [.seq] }.microSlot = none ∧ { State.reset with agenda := [.seq] }.agenda = [.seq] ∧
      stRuns { State.reset with agenda := [.seq] }.st = false) ∧
    ({ sending with agenda := [] }.microSlot = none ∧ { sending with agenda := [] }.agenda = [] ∧
      stRuns { sending with agenda := [] }.st = true) ∧
    ({ State.reset with microSlot := some 0x10#8 }.microSlot = some 0x10#8 ∧ decodeMicro 0x10#8 = .ok .fbZero) := by
  refine ⟨⟨rfl, rfl, rfl, rfl, by decide⟩, ⟨rfl, rfl, rfl⟩, ⟨rfl, rfl, rfl⟩, rfl, by decide⟩
/-- The boundary addresses 0 and 3, with a word of each kind. -/
theorem wit_StepRunsTheHostCommand :
    { State.reset with agenda := [.hostWrite 3#12 1#32] }.microSlot = none ∧
    { State.reset with agenda := [.hostWrite 3#12 1#32] }.agenda = [.hostWrite 3#12 1#32] ∧ (3#12).toNat < 4 ∧
    (0#12).toNat < 4 ∧ decodeCommand 1#32 = .ok .validate ∧ decodeCommand 4#32 = .error (.notAHostCommand 4#8) := by
  refine ⟨rfl, rfl, ?_⟩; decide
theorem wit_SequencerStuckOutsideRom :
    { sending with upc := 12#5 }.microSlot = none ∧ { sending with upc := 12#5 }.agenda = [.seq] ∧
    stRuns { sending with upc := 12#5 }.st = true ∧ 12 ≤ { sending with upc := 12#5 }.upc.toNat ∧
    12 ≤ { sending with upc := 31#5 }.upc.toNat := by refine ⟨rfl, rfl, rfl, ?_, ?_⟩ <;> decide
theorem wit_ValidateChecksInOrder : (opened cfgA).st = .idle ∧ (opened cfgA).cfgValid = false := ⟨rfl, rfl⟩
/-- The largest tagged frame, and the fields at their other bounds. -/
theorem wit_ValidateAcceptsLegalConfig :
    let c : Cfg := { cfgB with ethertype := 0xFFFE#16, vlanId := 0x0FFF#16, vlanPcp := 7#8, frameSize := 1522#16,
                               burstSize := 1#32, nBursts := 1#32, cycleTimeNs := 1#64 }
    (opened c).st = .idle ∧ (opened c).cfgValid = false ∧ c.ethertype.toNat ≤ 0xFFFE ∧ c.vlanId.toNat ≤ 0x0FFF ∧
    c.vlanPcp.toNat ≤ 7 ∧ 64 ≤ c.frameSize.toNat ∧ c.frameSize.toNat ≤ (if c.vlanTagged then 1522 else 1518) ∧
    1 ≤ c.burstSize.toNat ∧ (c.nBurstsEn = true → 1 ≤ c.nBursts.toNat) ∧ 1 ≤ c.cycleTimeNs.toNat := by decide
theorem wit_BuildMakesTheFrame : (locked cfgB).st = .idle ∧ (locked cfgB).cfgValid = true ∧ (locked cfgB).built = false ∧
    firstConfigError (locked cfgB).cfg = none := by decide
/-- The largest tagged frame fills the buffer. -/
theorem wit_BuildMakesTheFrame_largest : firstConfigError { cfgB with frameSize := 1522#16 } = none ∧
    liveLen { cfgB with frameSize := 1522#16 } = 1518 := by decide
theorem wit_BuildIsItsMicroOperations : (locked cfgB).st = .idle ∧ (locked cfgB).cfgValid = true ∧
    (locked cfgB).built = false ∧ ∃ s1 s2 s3 s4 s5 : State, exec .fbZero (locked cfgB) = .next s1 ∧
      exec .fbWrDmac s1 = .next s2 ∧ exec .fbWrSmac s2 = .next s3 ∧ exec .fbWrTag s3 = .next s4 ∧
      exec .fbWrEtype s4 = .next s5 := ⟨rfl, rfl, rfl, _, _, _, _, _, rfl, rfl, rfl, rfl, rfl⟩
theorem wit_RunEntersArming : (builtAt cfgA 0#32 0#32).st = .idle ∧ (builtAt cfgA 0#32 0#32).cfgValid = true ∧
    (builtAt cfgA 0#32 0#32).built = true := ⟨rfl, rfl, rfl⟩
theorem wit_CommandsOutOfOrderAreRejected : sending.st ≠ .idle ∧ (locked cfgA).cfgValid = true ∧
    (opened cfgA).cfgValid = false ∧ (builtAt cfgA 0#32 0#32).built = true ∧ (locked cfgA).built = false := by
  refine ⟨?_, rfl, rfl, rfl, rfl⟩; decide
theorem wit_FbZeroClearsTheLivePart : liveLen { cfgB with frameSize := 1522#16 } ≤ 1518 ∧ 0 < liveLen cfgA ∧
    59 < liveLen cfgA ∧ liveLen cfgA ≤ 60 := by decide
theorem wit_TagWriterPacksTheTag : (locked cfgB).cfg.vlanTagged = true ∧ (locked cfgA).cfg.vlanTagged = false := ⟨rfl, rfl⟩
/-- The last four bytes of the buffer, with the largest value. -/
theorem wit_MemReadAfterMemWrite : 1514 + 4 ≤ 1518 ∧ 0xFFFFFFFF < 256 ^ 4 ∧ 0 + 1 ≤ 1518 ∧ 0 < 256 ^ 0 := by decide
theorem wit_MixedWidthReads : (listed [1#8, 2#8, 3#8, 4#8] 18).memRead 18 4 = some 0x01020304 := by decide
/-- Both clauses: V5's row 3 with the last `now` that fits, and its last row. -/
theorem wit_ArmSetsTheFirstDeadline :
    (1 ≤ (locked cfgA).cfg.cycleTimeNs.toNat ∧
      (ns { sec := 5#64, nsec := 300000#32 } / 1000000 + 2) * 1000000 / 1000000000 < 2 ^ 64) ∧
    (ns { sec := 0xFFFFFFFFFFFFFFFD#64, nsec := 0#32 } / 1000000000 + 2) * 1000000000 / 1000000000 < 2 ^ 64 ∧
    2 ^ 64 ≤ (ns { sec := 0xFFFFFFFFFFFFFFFF#64, nsec := 0#32 } / 1000000000 + 2) * 1000000000 / 1000000000 := by
  decide +kernel
theorem wit_FirstDeadlineBounds : ∃ s t : State, 1 ≤ s.cfg.cycleTimeNs.toNat ∧ exec .arm s = .next t ∧ t.st ≠ .error := by
  have h : after (execArm (runningA 0#5 .arming 0#32 0#32)) (fun t => t.st == .arming) = true := by decide +kernel
  unfold after at h
  split at h
  · rename_i t ht
    exact ⟨_, t, by decide, ht, by simp at h; rw [h]; decide⟩
  · cases h
  · cases h
/-- Both places, at equality, one nanosecond early, and with early wake. -/
theorem wit_WaitHoldsUntilTheDeadline :
    ((runningA 1#5 .arming 0#32 0#32).upc = 1#5 ∧ (runningA 1#5 .arming 0#32 0#32).st = .arming) ∧
    ((runningA 9#5 .cycleWaiting 1#32 0#32).upc = 9#5 ∧ (runningA 9#5 .cycleWaiting 1#32 0#32).st = .cycleWaiting) ∧
    ns { sec := 5#64, nsec := 5000000#32 } ≤ ns { sec := 5#64, nsec := 5000000#32 } ∧
    ns { sec := 5#64, nsec := 4999999#32 } < ns { sec := 5#64, nsec := 5000000#32 } ∧
    { Params.default with spuriousWake := true }.spuriousWake = true ∧ Params.default.spuriousWake = false := by
  decide +kernel
theorem wit_AdvanceAddsOnePeriod :
    (ns { sec := 0xFFFFFFFFFFFFFFFF#64, nsec := 0#32 } + 999999999) / 1000000000 < 2 ^ 64 ∧
    2 ^ 64 ≤ (ns { sec := 0xFFFFFFFFFFFFFFFF#64, nsec := 999999999#32 } + 1) / 1000000000 := by decide +kernel
theorem wit_AdvanceNeverDrifts : ∃ s t : State, exec .advance s = .next t ∧ t.st ≠ .error := by
  have h : after (execAdvance (runningA 2#5 .arming 0#32 0#32)) (fun t => t.st == .burstSending) = true := by decide +kernel
  unfold after at h
  split at h
  · rename_i t ht
    exact ⟨_, t, ht, by simp at h; rw [h]; decide⟩
  · cases h
  · cases h
theorem wit_FieldOffsets : cfgA.vlanTagged = false ∧ cfgB.vlanTagged = true := ⟨rfl, rfl⟩
theorem wit_SendHandsOverTheBuffer : ∀ a, a < liveLen sending.cfg → (sending.fb.read a).isSome = true := by
  intro a ha
  rw [wit_FrameInv.builtIsFrame rfl a, List.getElem?_eq_getElem (by
    rw [frameImage_length (show firstConfigError sending.cfg = none from cfgA_checked)]; exact ha)]
  rfl
theorem wit_SendOutcomeChangesNothing : ∃ t, exec .send sending = .next t := by
  have h : after (execSend sending) (fun _ => true) = true := by decide +kernel
  unfold after at h
  split at h
  · exact ⟨_, by assumption⟩
  · cases h
  · cases h
/-- The last byte of the live part of a buffer never built. -/
theorem wit_SendStopsOnUnwrittenBytes : 59 < liveLen (locked cfgA).cfg ∧ (locked cfgA).fb.read 59 = none := by decide
theorem wit_BloopLoopsWhileFramesRemain : 2 < cfgB.burstSize.toNat ∧ cfgB.burstSize.toNat ≤ 3 := by decide
theorem wit_TchkEndsTheBoundedRun :
    ((builtAt cfgA 5#32 0#32).cfg.nBurstsEn = true ∧ (builtAt cfgA 5#32 0#32).seqId = (builtAt cfgA 5#32 0#32).cfg.nBursts) ∧
    (builtAt cfgA 4#32 0#32).seqId ≠ (builtAt cfgA 4#32 0#32).cfg.nBursts ∧
    ({ cfgA with nBurstsEn := false }).nBurstsEn = false := by refine ⟨⟨rfl, rfl⟩, ?_, rfl⟩; decide
/-- The first and the last configuration address, the addresses beside them, and a second register. -/
theorem wit_HostWriteReachesOnlyOpenConfig :
    let s : State := { State.reset with agenda := [.hostWrite 0x010#12 0xABCD88B5#32] }
    s.microSlot = none ∧ s.agenda = [.hostWrite 0x010#12 0xABCD88B5#32] ∧ s.st = .idle ∧ s.cfgValid = false ∧
    4 ≤ (0x010#12).toNat ∧ 0x010 ≤ (0x010#12).toNat ∧ (0x010#12).toNat ≤ 0x03F ∧ (0x03F#12).toNat ≤ 0x03F ∧
    ¬ 0x010 ≤ (0x00F#12).toNat ∧ ¬ (0x040#12).toNat ≤ 0x03F ∧ (0x03F#12).toNat / 4 ≠ (0x010#12).toNat / 4 ∧
    [0xFFFF#32, 0xFFFFFF#32, 0x3#32, 0xFFFF#32, 0xFFFFFFFF#32, 0xFFFFFFFF#32, 0xFFFFFFFF#32, 0xFFFFFFFF#32,
      0xFFFFFFFF#32, 0xFFFF#32, 0xFFFFFFFF#32, 0xFFFF#32][(0x03F#12).toNat / 4 - 4]? = some 0xFFFF#32 := by
  refine ⟨rfl, rfl, rfl, rfl, ?_⟩; decide
theorem wit_ReservedAddressesReadZero : (3#12).toNat < 4 ∧ 0x060 ≤ (0x060#12).toNat ∧ (0x7FF#12).toNat < 0x800 ∧
    0xDF0 ≤ (0xDF0#12).toNat ∧ 0xDF0 ≤ (0xFFF#12).toNat ∧ (3#12).toNat / 4 = (0#12).toNat / 4 := by decide
/-- Both clauses; the word with the last two bytes of the largest live part, and the last word of the window. -/
theorem wit_ReadWindowShowsTheBuffer :
    ((builtAt cfgA 5#32 0#32).built = true ∧ (builtAt cfgA 5#32 0#32).st = .idle ∧ 4 * 3 < liveLen cfgA ∧
      (builtAt cfgA 5#32 0#32).fb.read 12 = some 0x88#8 ∧ (builtAt cfgA 5#32 0#32).fb.read 13 = some 0xB5#8 ∧
      (builtAt cfgA 5#32 0#32).fb.read 14 = some 0#8 ∧ (builtAt cfgA 5#32 0#32).fb.read 15 = some 0#8) ∧
    (4 * 379 + 1 < liveLen { cfgB with frameSize := 1522#16 } ∧
      ¬ 4 * 379 + 2 < liveLen { cfgB with frameSize := 1522#16 }) ∧
    ((locked cfgA).built = false ∧ sending.st = .burstSending) := by decide +kernel
theorem wit_HostReadChangesNothing :
    let s : State := { sending with agenda := [.hostRead 0x040#12] }
    s.microSlot = none ∧ s.agenda = [.hostRead 0x040#12] ∧ hostReadWord s 0x040#12 = some 2#32 := ⟨rfl, rfl, rfl⟩
theorem wit_ResetMoveRestoresResetState :
    { sending with agenda := [.rst] }.microSlot = none ∧ { sending with agenda := [.rst] }.agenda = [.rst] := ⟨rfl, rfl⟩
theorem wit_DoneAndErrorAreTerminal :
    (∃ t, step { builtAt cfgA 5#32 0#32 with st := .done, upc := 11#5, agenda := [.hostWrite 0#12 3#32] } = .next t) ∧
    (∃ t, step { opened cfgA with st := .error, errCode := 1#8, agenda := [.seq] } = .next t) := ⟨⟨_, rfl⟩, _, rfl⟩
theorem wit_HostCannotDisturbTheRun : sending.microSlot = none ∧ stRuns sending.st = true ∧
    ∃ t, step { sending with agenda := [.hostWrite 0x020#12 7#32] } = .next t := ⟨rfl, rfl, _, rfl⟩
/-- All four clauses at once. -/
theorem wit_LocksAndStickyFlagsLast :
    ∃ s t : State, s.agenda.head? ≠ some .rst ∧ step s = .next t ∧ s.cfgValid = true ∧ s.built = true ∧
      s.seqWrapped = true ∧ s.cmdRej = true :=
  ⟨{ builtAt cfgA 5#32 0#32 with st := .done, seqWrapped := true, cmdRej := true, agenda := [.hostWrite 0#12 3#32] }, _,
    by decide, rfl, rfl, rfl, rfl, rfl⟩
/-- Each clause: ARM and ADVANCE move the deadline, ARM the period, FINC `frame_id`, SINC `seq_id`, all three the
buffer. -/
theorem wit_OnlyOwnersWriteDuringARun :
    after (step { runningA 0#5 .arming 0#32 0#32 with periodNs := 0#64 }) (fun t => decide (t.nextDeadline ≠ ⟨5#64, 5000000#32⟩) &&
      decide (t.periodNs ≠ 0#64)) = true ∧
    after (step (runningA 3#5 .burstSending 2#32 0#32)) (fun t => decide (t.frameId ≠ 0#32) &&
      decide (t.fb ≠ (runningA 3#5 .burstSending 2#32 0#32).fb)) = true ∧
    after (step (runningA 7#5 .burstSending 2#32 0#32)) (fun t => decide (t.seqId ≠ 2#32)) = true := by decide +kernel
/-- Each clause: an operation that emits nothing, SEND and HALT. -/
theorem wit_OnlyArmAndWaitReadTheClock : Instr.finc ≠ .arm ∧ Instr.finc ≠ .wait ∧ Instr.finc ≠ .send ∧ Instr.finc ≠ .halt ∧
    Instr.send ≠ .arm ∧ Instr.send ≠ .wait ∧ Instr.halt ≠ .arm ∧ Instr.halt ≠ .wait ∧
    (∃ t, exec .finc sending = .next t) ∧ (∃ t, exec .send sending = .next t) ∧ (∃ t, exec .halt sending = .next t) := by
  refine ⟨by decide, by decide, by decide, by decide, by decide, by decide, by decide, by decide, ⟨_, rfl⟩,
    wit_SendOutcomeChangesNothing, ⟨_, rfl⟩⟩
theorem wit_NoStepStops : FrameInv sending ∧ SequencerInv sending := ⟨wit_FrameInv, wit_SequencerInv⟩
theorem wit_CountersCohereWithTheBuffer : FrameInv sending ∧ sending.built = true := ⟨wit_FrameInv, rfl⟩
theorem wit_NoFrameBeforeItsDeadline :
    ∃ (t : State) (bytes : List Byte) (o : TxAnswer) (time : Nat), TimingInv sending ∧ step sending = .next t ∧
      t.trace = sending.trace ++ [.tx bytes o time] := ⟨_, _, _, _, wit_TimingInv, rfl, rfl⟩
theorem wit_EachMicroOperationCountsDown :
    SequencerInv sending ∧ sending.params.seqIncPhase = .afterBurst ∧ sending.cfg.nBurstsEn = true ∧
    stRuns sending.st = true ∧ sending.agenda = [.seq] ∧ sending.upc ≠ 1#5 ∧ sending.upc ≠ 9#5 ∧
    ∃ t, step sending = .next t ∧ t.st ≠ .error :=
  ⟨wit_SequencerInv, rfl, rfl, rfl, rfl, by decide, by decide, _, rfl, by decide⟩
/-- Before RUN: built, idle, both counters 0. -/
theorem wit_BoundedRunLength :
    let s := builtAt cfgA 0#32 0#32
    SequencerInv s ∧ s.cfg.nBurstsEn = true ∧ s.built = true ∧ s.cfgValid = true ∧ s.st = .idle ∧
    ∃ t, exec .run s = .next t :=
  ⟨⟨⟨rfl, fun _ => cfgA_checked, fun _ => rfl, fun _ => rfl⟩, by decide, by decide, fun h => (by cases h), by decide,
    fun h => (by cases h), by decide, by decide, by decide⟩, rfl, rfl, rfl, rfl, _, rfl⟩
theorem wit_StepKeepsTheFrame : ∃ t, FrameInv sending ∧ step sending = .next t := ⟨_, wit_FrameInv, rfl⟩
theorem wit_StepKeepsTheSequencer : ∃ t, SequencerInv sending ∧ step sending = .next t := ⟨_, wit_SequencerInv, rfl⟩
theorem wit_StepKeepsTheSchedule : ∃ t, ScheduleInv sending ∧ step sending = .next t := ⟨_, wit_ScheduleInv, rfl⟩
theorem wit_StepKeepsTheTiming : ∃ t, TimingInv sending ∧ step sending = .next t ∧ ns sending.now ≤ ns t.now :=
  ⟨_, wit_TimingInv, rfl, Nat.le_refl _⟩

end Sys2Proof.Tests.Slice0
end

section
/-!
Where the fields of a frame lie (00 R11): the two offsets that the tag decides, and from them O30.
-/
namespace Sys2Proof.Machine

/-! ### What the tag decides -/

@[simp] theorem headerLen_of_untagged {c : Cfg} (untagged : c.vlanTagged = false) : headerLen c = 14 := by
  simp [headerLen, untagged, Config.hdrUntagged]

@[simp] theorem headerLen_of_tagged {c : Cfg} (tagged : c.vlanTagged = true) : headerLen c = 18 := by
  simp [headerLen, tagged, Config.hdrTagged]

@[simp] theorem offEtype_of_untagged {c : Cfg} (untagged : c.vlanTagged = false) : offEtype c = 12 := by
  simp [offEtype, untagged]

@[simp] theorem offEtype_of_tagged {c : Cfg} (tagged : c.vlanTagged = true) : offEtype c = 16 := by
  simp [offEtype, tagged]

/-! ### The fields in the order of the frame -/

/-- The EtherType is the last field of the header, with or without a tag: the sequence counter follows it. -/
theorem offSeq_eq_offEtype_add (c : Cfg) : offSeq c = offEtype c + 2 := by
  unfold offSeq
  cases tag : c.vlanTagged with
  | false => rw [headerLen_of_untagged tag, offEtype_of_untagged tag]
  | true => rw [headerLen_of_tagged tag, offEtype_of_tagged tag]

theorem offFrm_eq_offSeq_add (c : Cfg) : offFrm c = offSeq c + 4 := rfl

theorem offPad_eq_offFrm_add (c : Cfg) : offPad c = offFrm c + 4 := rfl

/-- Settles O30: each field starts where the one before it ends, so the EtherType's offset fixes the others. -/
theorem fieldOffsets : Obligations.FieldOffsets := by
  intro c
  have seqAfterEtype := offSeq_eq_offEtype_add c
  have frmAfterSeq := offFrm_eq_offSeq_add c
  have padAfterFrm := offPad_eq_offFrm_add c
  constructor
  · intro untagged
    have etype := offEtype_of_untagged untagged
    omega
  · intro tagged
    have etype := offEtype_of_tagged tagged
    omega

end Sys2Proof.Machine
end

section
/-!
What one operation writes, by who executes it (30 R79): a host command's outcomes, the buffer alone for the frame
builder, and the registers that the sequencer's operations leave as they are.
-/
namespace Sys2Proof.Machine

/-! ### The frame builder -/

/-- The buffer after the five builder operations of BUILD (40 R93), the counters' fields being still 0. -/
def headerBuffer (p : Params) (c : Cfg) (m : Memory) : Memory :=
  let macs := ((m.zeroFill (liveLen c)).writeBytes offDmac (netBytes 6 c.destMac.toNat)).writeBytes offSmac
    (netBytes 6 c.srcMac.toNat)
  let tagged := if c.vlanTagged then
    (macs.writeBytes offTpid (netBytes 2 p.tpid.toNat)).writeBytes offTci (netBytes 2 (tci c).toNat) else macs
  tagged.writeBytes (offEtype c) (netBytes 2 c.ethertype.toNat)

/-- FB_WR_TAG writes the tag where there is one (41 R100). -/
theorem execFbWrTag_eq {s t : State} (h : execFbWrTag s = .next t) :
    t = { s with fb := if s.cfg.vlanTagged then
      (s.fb.writeBytes offTpid (netBytes 2 s.params.tpid.toNat)).writeBytes offTci (netBytes 2 (tci s.cfg).toNat)
      else s.fb } := by
  rcases execFbWrTag_next h with ⟨untagged, rfl⟩ | ⟨tagged, rfl⟩
  · simp [untagged]
  · simp [tagged]

/-- All that BUILD can do, its five operations taken together: a rejection, or the header's buffer and the three
registers. -/
theorem execBuild_headerBuffer {s t : State} (h : execBuild s = .next t) :
    t = { s with cmdRej := true } ∨
    (s.st = .idle ∧ s.cfgValid = true ∧ s.built = false ∧ liveLen s.cfg ≤ Config.fbCapacity ∧
      t = { s with fb := headerBuffer s.params s.cfg s.fb, seqId := 0#32, frameId := 0#32, built := true }) := by
  rcases execBuild_next h with rejected | ⟨idle, valid, unbuilt, s1, s2, s3, s4, s5, h1, h2, h3, h4, h5, rfl⟩
  · exact .inl rejected
  · obtain ⟨fits, rfl⟩ := execFbZero_next h1
    cases execFbWrDmac_next h2
    cases execFbWrSmac_next h3
    cases execFbWrTag_eq h4
    cases execFbWrEtype_next h5
    refine .inr ⟨idle, valid, unbuilt, fits, ?_⟩
    simp only [headerBuffer]

/-- The frame builder's operations write the buffer alone (41 R97 to R101). -/
theorem exec_builder {i : Instr} {s t : State} (builder : i.issuer = .builder) (h : exec i s = .next t) :
    ∃ m, t = { s with fb := m } := by
  cases i with
  | fbZero => exact ⟨_, (execFbZero_next h).2⟩
  | fbWrDmac => exact ⟨_, execFbWrDmac_next h⟩
  | fbWrSmac => exact ⟨_, execFbWrSmac_next h⟩
  | fbWrTag => exact ⟨_, execFbWrTag_eq h⟩
  | fbWrEtype => exact ⟨_, execFbWrEtype_next h⟩
  | _ => cases builder

/-! ### The host commands -/

/-- All that a host command can do (40 R90 to R94). -/
inductive CommandEffect (s : State) : State → Prop where
  | nothing : CommandEffect s s
  | rejected : CommandEffect s { s with cmdRej := true }
  | validated (idle : s.st = .idle) (unchecked : s.cfgValid = false) (passes : firstConfigError s.cfg = none) :
      CommandEffect s { s with cfgValid := true }
  | failed (idle : s.st = .idle) (unchecked : s.cfgValid = false) (e : ConfigError) :
      CommandEffect s { s with errCode := configErrorCode e, st := .error, cfgValid := false }
  | built (idle : s.st = .idle) (valid : s.cfgValid = true) (unbuilt : s.built = false)
      (fits : liveLen s.cfg ≤ Config.fbCapacity) :
      CommandEffect s
        { s with fb := headerBuffer s.params s.cfg s.fb, seqId := 0#32, frameId := 0#32, built := true }
  | started (idle : s.st = .idle) (valid : s.cfgValid = true) (isBuilt : s.built = true) :
      CommandEffect s { s with st := .arming, upc := 0#5 }

theorem exec_command {i : Instr} {s t : State} (host : i.issuer = .host) (h : exec i s = .next t) :
    CommandEffect s t := by
  cases i with
  | nop => cases execNop_next h; exact .nothing
  | validate =>
    rcases execValidate_next h with rfl | ⟨idle, unchecked, passes, rfl⟩ | ⟨idle, unchecked, e, -, rfl⟩
    · exact .rejected
    · exact .validated idle unchecked passes
    · exact .failed idle unchecked e
  | build =>
    rcases execBuild_headerBuffer h with rfl | ⟨idle, valid, unbuilt, fits, rfl⟩
    · exact .rejected
    · exact .built idle valid unbuilt fits
  | run =>
    rcases execRun_next h with rfl | ⟨idle, valid, isBuilt, rfl⟩
    · exact .rejected
    · exact .started idle valid isBuilt
  | _ => cases host

/-- The operations a word in `CMD` can stand for are the host's (30 R81). -/
theorem issuer_of_command {i : Instr} (h : i ∈ [Instr.nop, .validate, .build, .run]) : i.issuer = .host := by
  simp only [List.mem_cons, List.not_mem_nil, or_false] at h
  rcases h with rfl | rfl | rfl | rfl <;> rfl

/-- While the sequencer runs, no command is accepted (40 R90). -/
theorem CommandEffect.of_running {s t : State} (effect : CommandEffect s t) (runs : stRuns s.st = true) :
    t = s ∨ t = { s with cmdRej := true } := by
  cases effect with
  | nothing => exact .inl rfl
  | rejected => exact .inr rfl
  | validated idle | failed idle | built idle | started idle => simp [idle, stRuns] at runs

/-! ### The sequencer's operations -/

/-- What every operation of the sequencer leaves as it was: the configuration, the locks, the parameters, the slot, and
a set wrap flag. -/
structure SequencerFrame (s t : State) : Prop where
  cfg : t.cfg = s.cfg
  cfgValid : t.cfgValid = s.cfgValid
  built : t.built = s.built
  cmdRej : t.cmdRej = s.cmdRej
  params : t.params = s.params
  microSlot : t.microSlot = s.microSlot
  wrapStays : s.seqWrapped = true → t.seqWrapped = true

theorem exec_sequencer {i : Instr} {s t : State} (sequencer : i.issuer = .sequencer) (h : exec i s = .next t) :
    SequencerFrame s t := by
  cases i with
  | arm => rcases execArm_next h with ⟨-, rfl⟩ | ⟨-, rfl⟩ <;> exact ⟨rfl, rfl, rfl, rfl, rfl, rfl, id⟩
  | wait => rcases execWait_next h with ⟨-, rfl⟩ | ⟨-, rfl⟩ <;> exact ⟨rfl, rfl, rfl, rfl, rfl, rfl, id⟩
  | advance => rcases execAdvance_next h with ⟨-, rfl⟩ | ⟨-, rfl⟩ <;> exact ⟨rfl, rfl, rfl, rfl, rfl, rfl, id⟩
  | finc => cases execFinc_next h; exact ⟨rfl, rfl, rfl, rfl, rfl, rfl, id⟩
  | frst => cases execFrst_next h; exact ⟨rfl, rfl, rfl, rfl, rfl, rfl, id⟩
  | sinc =>
    cases execSinc_next h
    exact ⟨rfl, rfl, rfl, rfl, rfl, rfl, fun wrapped => by simp [State.wrapFlag, wrapped]⟩
  | send => obtain ⟨_, -, rfl⟩ := execSend_next h; exact ⟨rfl, rfl, rfl, rfl, rfl, rfl, id⟩
  | bloop => rcases execBloop_next h with ⟨-, rfl⟩ | ⟨-, rfl⟩ <;> exact ⟨rfl, rfl, rfl, rfl, rfl, rfl, id⟩
  | tchk => rcases execTchk_next h with ⟨-, rfl⟩ | ⟨-, rfl⟩ <;> exact ⟨rfl, rfl, rfl, rfl, rfl, rfl, id⟩
  | halt => cases execHalt_next h; exact ⟨rfl, rfl, rfl, rfl, rfl, rfl, id⟩
  | _ => cases sequencer

/-- Which of the sequencer's operations owns each register and the buffer (10 R14, R15, R18, R19; 20 R50). -/
structure WrittenByOwners (i : Instr) (s t : State) : Prop where
  nextDeadline : i ≠ .arm → i ≠ .advance → t.nextDeadline = s.nextDeadline
  periodNs : i ≠ .arm → t.periodNs = s.periodNs
  frameId : i ≠ .finc → i ≠ .frst → t.frameId = s.frameId
  seqId : i ≠ .sinc → t.seqId = s.seqId
  fb : i ≠ .finc → i ≠ .frst → i ≠ .sinc → t.fb = s.fb

theorem exec_writtenByOwners {i : Instr} {s t : State} (sequencer : i.issuer = .sequencer)
    (h : exec i s = .next t) : WrittenByOwners i s t := by
  cases i with
  | arm => rcases execArm_next h with ⟨-, rfl⟩ | ⟨-, rfl⟩ <;> constructor <;> simp
  | wait => rcases execWait_next h with ⟨-, rfl⟩ | ⟨-, rfl⟩ <;> constructor <;> simp
  | advance => rcases execAdvance_next h with ⟨-, rfl⟩ | ⟨-, rfl⟩ <;> constructor <;> simp
  | finc => cases execFinc_next h; constructor <;> simp
  | frst => cases execFrst_next h; constructor <;> simp
  | sinc => cases execSinc_next h; constructor <;> simp
  | send => obtain ⟨_, -, rfl⟩ := execSend_next h; constructor <;> simp
  | bloop => rcases execBloop_next h with ⟨-, rfl⟩ | ⟨-, rfl⟩ <;> constructor <;> simp
  | tchk => rcases execTchk_next h with ⟨-, rfl⟩ | ⟨-, rfl⟩ <;> constructor <;> simp
  | halt => cases execHalt_next h; constructor <;> simp
  | _ => cases sequencer

/-! ### The places of the micro-program -/

/-- At a place of the micro-program stands the word of its operation (44 R123). -/
theorem romAt_of_place {p : SeqIncPhase} {u : BitVec 5} {i : Instr} {b : Byte} (h : (u, i) ∈ romPlaces p)
    (word : encode i = .micro b) : romAt p u = some b := by
  have all : ∀ x ∈ romPlaces p, (romAt p x.1).map .micro = some (encode x.2) := by cases p <;> decide
  simpa [word] using all _ h

/-- The micro-program holds operations of the sequencer alone (30 R79). -/
theorem issuer_of_place {p : SeqIncPhase} {u : BitVec 5} {i : Instr} (h : (u, i) ∈ romPlaces p) :
    i.issuer = .sequencer := by
  have all : ∀ x ∈ romPlaces p, x.2.issuer = .sequencer := by cases p <;> decide
  exact all _ h

/-- ARM and nothing else stands at place 0. -/
theorem place_eq_zero_iff {p : SeqIncPhase} {u : BitVec 5} {i : Instr} (h : (u, i) ∈ romPlaces p) :
    u = 0#5 ↔ i = .arm := by
  have all : ∀ x ∈ romPlaces p, x.1 = 0#5 ↔ x.2 = .arm := by cases p <;> decide
  exact all _ h

end Sys2Proof.Machine
end

section
/-!
An invariant that every move keeps is kept by every step: the induction step of all the whole-machine invariants, said
once, and with it what all of them share (`Ordered`).
-/
namespace Sys2Proof.Machine

open Sys2Proof.Safety

/-- What a predicate needs in order to be kept by every move of every agent: one field per move of the environment, per
accepted outcome of a host command, and one for the sequencer's operations at their places. -/
structure KeptByMoves (P : State → Prop) : Prop where
  slot : ∀ {s}, P s → s.microSlot = none
  environment : ∀ {s}, P s → ∀ now out agenda sinkQueue clockDraws cmdRej,
    P { s with now := now, out := out, agenda := agenda, sinkQueue := sinkQueue, clockDraws := clockDraws,
               cmdRej := cmdRej }
  reset : ∀ {s}, P s → P s.doReset
  configured : ∀ {s}, P s → s.st = .idle → s.cfgValid = false → ∀ c, P { s with cfg := c }
  validated : ∀ {s}, P s → s.st = .idle → s.cfgValid = false → firstConfigError s.cfg = none →
    P { s with cfgValid := true }
  failed : ∀ {s}, P s → s.st = .idle → s.cfgValid = false → ∀ e,
    P { s with errCode := configErrorCode e, st := .error, cfgValid := false }
  built : ∀ {s}, P s → s.st = .idle → s.cfgValid = true → s.built = false → liveLen s.cfg ≤ Config.fbCapacity →
    P { s with fb := headerBuffer s.params s.cfg s.fb, seqId := 0#32, frameId := 0#32, built := true }
  started : ∀ {s}, P s → s.st = .idle → s.cfgValid = true → s.built = true → P { s with st := .arming, upc := 0#5 }
  micro : ∀ {s t i}, P s → stRuns s.st = true → (s.upc, i) ∈ romPlaces s.params.seqIncPhase → exec i s = .next t → P t

theorem KeptByMoves.start {P : State → Prop} (kept : KeptByMoves P) {s s1 : State} (holds : P s)
    (start : MoveStart s s1) : P s1 := by
  rw [start.eq]
  exact kept.environment holds s1.now Ports.quiet s1.agenda s.sinkQueue s1.clockDraws s.cmdRej

theorem KeptByMoves.command {P : State → Prop} (kept : KeptByMoves P) {s t : State} (holds : P s)
    (effect : CommandEffect s t) : P t := by
  cases effect with
  | nothing => exact holds
  | rejected => exact kept.environment holds s.now s.out s.agenda s.sinkQueue s.clockDraws true
  | validated idle unchecked passes => exact kept.validated holds idle unchecked passes
  | failed idle unchecked e => exact kept.failed holds idle unchecked e
  | built idle valid unbuilt fits => exact kept.built holds idle valid unbuilt fits
  | started idle valid isBuilt => exact kept.started holds idle valid isBuilt

/-- An invariant kept by every move is kept by every step. -/
theorem KeptByMoves.step {P : State → Prop} (kept : KeptByMoves P) {s t : State} (holds : P s)
    (h : Machine.step s = .next t) : P t := by
  obtain ⟨s1, start, effect⟩ := step_effect (kept.slot holds) h
  have holds1 : P s1 := kept.start holds start
  cases effect with
  | held => exact holds1
  | rst => exact kept.reset holds1
  | clock now => exact kept.environment holds1 now s1.out s1.agenda s1.sinkQueue s1.clockDraws s1.cmdRej
  | sink o => exact kept.environment holds1 s1.now s1.out s1.agenda (s1.sinkQueue ++ [o]) s1.clockDraws s1.cmdRej
  | read a w =>
    exact kept.environment holds1 s1.now { s1.out with hRdata := some w } s1.agenda s1.sinkQueue s1.clockDraws s1.cmdRej
  | rejected => exact kept.environment holds1 s1.now s1.out s1.agenda s1.sinkQueue s1.clockDraws true
  | config c _ idle unchecked => exact kept.configured holds1 idle unchecked c
  | command i _ _ host he => exact kept.command holds1 (exec_command (issuer_of_command host) he)
  | micro i _ runs _ place he => exact kept.micro holds1 runs place he

/-! ### What every invariant needs -/


theorem ordered_unbuilt {s : State} (h : Ordered s) (unchecked : s.cfgValid = false) : s.built = false := by
  cases isBuilt : s.built with
  | false => rfl
  | true => rw [h.builtIsValid isBuilt] at unchecked; cases unchecked

/-- While the sequencer runs the configuration is a checked one. -/
theorem ordered_checked {s : State} (h : Ordered s) (runs : stRuns s.st = true) : firstConfigError s.cfg = none :=
  h.validIsChecked (h.builtIsValid (h.runsIsBuilt runs))

theorem ordered_keptByMoves : KeptByMoves Ordered where
  slot h := h.slotEmpty
  environment h _ _ _ _ _ _ := ⟨h.slotEmpty, h.validIsChecked, h.builtIsValid, h.runsIsBuilt⟩
  reset h := ⟨h.slotEmpty, nofun, nofun, nofun⟩
  configured h idle unchecked _ :=
    ⟨h.slotEmpty, by simp [unchecked], h.builtIsValid, h.runsIsBuilt⟩
  validated h _ _ passes := ⟨h.slotEmpty, fun _ => passes, fun _ => rfl, h.runsIsBuilt⟩
  failed h _ unchecked _ := ⟨h.slotEmpty, nofun, by simp [ordered_unbuilt h unchecked], nofun⟩
  built h _ valid _ _ := ⟨h.slotEmpty, h.validIsChecked, fun _ => valid, fun _ => rfl⟩
  started h _ _ isBuilt := ⟨h.slotEmpty, h.validIsChecked, h.builtIsValid, fun _ => isBuilt⟩
  micro {s t i} h runs place he := by
    have frame := exec_sequencer (issuer_of_place place) he
    have isBuilt : t.built = true := frame.built.trans (h.runsIsBuilt runs)
    exact ⟨frame.microSlot.trans h.slotEmpty,
      by rw [frame.cfgValid, frame.cfg]; exact h.validIsChecked,
      by rw [frame.built, frame.cfgValid]; exact h.builtIsValid, fun _ => isBuilt⟩

end Sys2Proof.Machine
end

section
/-!
The buffer: BUILD lays out the header and zeroes, which is the frame with both counters 0, and the counter engine keeps
the frame. From them O56, and O52 by reading the counters' fields back.
-/
namespace Sys2Proof.Machine

open Sys2Proof.Safety

/-! ### What BUILD lays out -/

/-- What each byte of BUILD's buffer is: the header, then zeroes to the end of the live part, then what was there. -/
theorem headerBuffer_read (p : Params) (c : Cfg) (m : Memory) (a : Nat) :
    (headerBuffer p c m).read a =
      if a < headerLen c then (frameHeader p c)[a]? else if a < liveLen c then some 0#8 else m.read a := by
  cases tag : c.vlanTagged with
  | false =>
    rw [headerLen_of_untagged tag, headerBuffer, frameHeader, offEtype_of_untagged tag]
    grind [read_memWritten, Memory.read_zeroFill, netBytes_length, offDmac, offSmac]
  | true =>
    rw [headerLen_of_tagged tag, headerBuffer, frameHeader, offEtype_of_tagged tag]
    grind [read_memWritten, Memory.read_zeroFill, netBytes_length, offDmac, offSmac, offTpid, offTci]

theorem netBytes_zero_getElem? (n i : Nat) (h : i < n) : (netBytes n 0)[i]? = some 0#8 := by
  rw [netBytes_getElem? n 0 i h, Nat.zero_div]

/-- With both counters 0 a frame is its header and zeroes to the end of the live part. -/
theorem frameImage_zero_getElem? {p : Params} {c : Cfg} (checked : firstConfigError c = none) (a : Nat) :
    (frameImage p c 0#32 0#32)[a]? =
      if a < headerLen c then (frameHeader p c)[a]? else if a < liveLen c then some 0#8 else none := by
  have ⟨live, _⟩ := liveLen_bounds checked
  have header := headerLen_cases c
  have zero := netBytes_zero_getElem? 4
  rw [frameImage_getElem?, show (0#32).toNat = 0 from rfl, offPad]
  split
  · rfl
  · split
    · rw [zero _ (by omega), if_pos (by omega)]
    · split
      · rw [zero _ (by omega), if_pos (by omega)]
      · rw [show headerLen c + 8 + (liveLen c - (headerLen c + 8)) = liveLen c by omega]

/-- BUILD's buffer on an empty one is the frame with both counters 0 (41 R102). -/
theorem headerBuffer_nil_read {p : Params} {c : Cfg} (checked : firstConfigError c = none) (a : Nat) :
    (headerBuffer p c []).read a = (frameImage p c 0#32 0#32)[a]? := by
  rw [headerBuffer_read, frameImage_zero_getElem? checked, Memory.read_nil]

/-- BUILD keeps the canonical form. -/
theorem headerBuffer_wf {p : Params} {c : Cfg} {m : Memory} (canonical : m.wf = true)
    (fits : liveLen c ≤ Config.fbCapacity) : (headerBuffer p c m).wf = true := by
  have bytes {m : Memory} (canonical : m.wf = true) (a n v : Nat) (inside : a + n ≤ Config.fbCapacity) :
      (m.writeBytes a (netBytes n v)).wf = true := Memory.wf_writeBytes canonical (by simpa using inside)
  have macs := bytes (bytes (Memory.wf_zeroFill canonical fits) offDmac 6 c.destMac.toNat (by decide)) offSmac 6
    c.srcMac.toNat (by decide)
  unfold headerBuffer
  refine bytes ?_ _ _ _ (offEtype_bound c)
  split
  · exact bytes (bytes macs _ _ _ (by decide)) _ _ _ (by decide)
  · exact macs

/-! ### The frame is kept -/

/-- A step that leaves the buffer, the configuration and the counters leaves the buffer's invariant. -/
theorem frameInv_of_unwritten {s t : State} (hs : FrameInv s) (ordered : Ordered t) (frame : SequencerFrame s t)
    (fb : t.fb = s.fb) (seqId : t.seqId = s.seqId) (frameId : t.frameId = s.frameId) : FrameInv t where
  toOrdered := ordered
  canonical := by rw [fb]; exact hs.canonical
  unbuiltIsEmpty := by rw [frame.built, fb]; exact hs.unbuiltIsEmpty
  builtIsFrame := by rw [frame.built, fb, frame.params, frame.cfg, seqId, frameId]; exact hs.builtIsFrame

/-- The counter engine changes a counter and its field together, so the buffer stays the frame (10 R16). -/
theorem frameInv_micro {s t : State} {i : Instr} (hs : FrameInv s) (runs : stRuns s.st = true)
    (place : (s.upc, i) ∈ romPlaces s.params.seqIncPhase) (he : exec i s = .next t) : FrameInv t := by
  have sequencer := issuer_of_place place
  have ordered : Ordered t := ordered_keptByMoves.micro hs.toOrdered runs place he
  have isBuilt : s.built = true := hs.runsIsBuilt runs
  have isFrame := hs.builtIsFrame isBuilt
  by_cases finc : i = .finc
  · subst finc
    cases execFinc_next he
    exact ⟨ordered, Memory.wf_writeBytes hs.canonical (by simpa using offFrm_bound s.cfg), by simp [isBuilt],
      fun _ => frameImage_rewriteFrm isFrame (s.frameId + 1#32)⟩
  by_cases frst : i = .frst
  · subst frst
    cases execFrst_next he
    exact ⟨ordered, Memory.wf_writeBytes hs.canonical (by simpa using offFrm_bound s.cfg), by simp [isBuilt],
      fun _ => frameImage_rewriteFrm isFrame 0#32⟩
  by_cases sinc : i = .sinc
  · subst sinc
    cases execSinc_next he
    exact ⟨ordered, Memory.wf_writeBytes hs.canonical (by simpa using offSeq_bound s.cfg), by simp [isBuilt],
      fun _ => frameImage_rewriteSeq isFrame (s.seqId + 1#32)⟩
  · have owners := exec_writtenByOwners sequencer he
    exact frameInv_of_unwritten hs ordered (exec_sequencer sequencer he) (owners.fb finc frst sinc)
      (owners.seqId sinc) (owners.frameId finc frst)

theorem frameInv_keptByMoves : KeptByMoves FrameInv where
  slot h := h.slotEmpty
  environment h now out agenda sinkQueue clockDraws cmdRej :=
    ⟨ordered_keptByMoves.environment h.toOrdered now out agenda sinkQueue clockDraws cmdRej, h.canonical,
      h.unbuiltIsEmpty, h.builtIsFrame⟩
  reset h := ⟨ordered_keptByMoves.reset h.toOrdered, rfl, fun _ => rfl, nofun⟩
  configured h idle unchecked c :=
    ⟨ordered_keptByMoves.configured h.toOrdered idle unchecked c, h.canonical, h.unbuiltIsEmpty,
      by simp [ordered_unbuilt h.toOrdered unchecked]⟩
  validated h idle unchecked passes :=
    ⟨ordered_keptByMoves.validated h.toOrdered idle unchecked passes, h.canonical, h.unbuiltIsEmpty, h.builtIsFrame⟩
  failed h idle unchecked e :=
    ⟨ordered_keptByMoves.failed h.toOrdered idle unchecked e, h.canonical, h.unbuiltIsEmpty, h.builtIsFrame⟩
  built {s} h idle valid unbuilt fits :=
    { toOrdered := ordered_keptByMoves.built h.toOrdered idle valid unbuilt fits
      canonical := headerBuffer_wf h.canonical fits
      unbuiltIsEmpty := nofun
      builtIsFrame := fun _ a => by
        simp only [h.unbuiltIsEmpty unbuilt]
        exact headerBuffer_nil_read (h.validIsChecked valid) a }
  started h idle valid isBuilt :=
    ⟨ordered_keptByMoves.started h.toOrdered idle valid isBuilt, h.canonical, h.unbuiltIsEmpty, h.builtIsFrame⟩
  micro h runs place he := frameInv_micro h runs place he

/-- Settles O56: BUILD makes the frame from an empty buffer, the counter engine rewrites a field with its counter, and
no other move writes the buffer or what the frame is made of. -/
theorem stepKeepsTheFrame : Obligations.StepKeepsTheFrame :=
  fun _ _ holds h => frameInv_keptByMoves.step holds h

/-! ### Reading the counters back -/

/-- Reading in network byte order what was written in it gives the number, modulo the width (20 R56, R57). -/
theorem netNumber_netBytes (n v : Nat) : netNumber (netBytes n v) = v % 256 ^ n := by
  induction n with
  | zero => simp [netBytes, netNumber, Nat.mod_one]
  | succ n ih =>
    simp only [netBytes, netNumber, ih, netBytes_length, BitVec.toNat_ofNat]
    rw [pow_succ 256 n, Nat.mod_mul (x := v), Nat.mul_comm, Nat.add_comm]

/-- A field whose bytes are a counter's is read as the counter. -/
theorem memRead_counter {m : Memory} {a : Nat} {q : BitVec 32}
    (field : ∀ i, i < 4 → m.read (a + i) = (netBytes 4 q.toNat)[i]?) : m.memRead a 4 = some q.toNat := by
  have bytes : m.readBytes a 4 = some (netBytes 4 q.toNat) :=
    (Memory.readBytes_eq_some ..).2 ⟨netBytes_length .., field⟩
  rw [Memory.memRead, bytes, Option.map_some, netNumber_netBytes, Nat.mod_eq_of_lt (by omega)]

theorem frameImage_seqField (p : Params) (c : Cfg) (q f : BitVec 32) {i : Nat} (h : i < 4) :
    (frameImage p c q f)[offSeq c + i]? = (netBytes 4 q.toNat)[i]? := by
  rw [frameImage_getElem?, offSeq, if_neg (by omega), if_pos (by omega), Nat.add_sub_cancel_left]

theorem frameImage_frmField (p : Params) (c : Cfg) (q f : BitVec 32) {i : Nat} (h : i < 4) :
    (frameImage p c q f)[offFrm c + i]? = (netBytes 4 f.toNat)[i]? := by
  rw [frameImage_getElem?, offFrm, if_neg (by omega), if_neg (by omega), if_pos (by omega)]
  congr 1
  omega

/-- Settles O52: the invariant gives the bytes of the two fields, and they are the counters in network byte order. -/
theorem countersCohereWithTheBuffer : Obligations.CountersCohereWithTheBuffer := by
  intro s holds isBuilt
  have isFrame := holds.builtIsFrame isBuilt
  exact ⟨memRead_counter fun i hi => by rw [isFrame, frameImage_seqField _ _ _ _ hi],
    memRead_counter fun i hi => by rw [isFrame, frameImage_frmField _ _ _ _ hi]⟩

end Sys2Proof.Machine
end

section
/-!
The sequencer: what each operation makes of the counters at its place (43 R120), and from it O57.
-/
namespace Sys2Proof.Machine

open Sys2Proof.Safety

/-! ### The places of each operation -/

theorem place_arm {p : SeqIncPhase} {u : BitVec 5} (h : (u, .arm) ∈ romPlaces p) : u = 0#5 :=
  (place_eq_zero_iff h).2 rfl

theorem place_wait {p : SeqIncPhase} {u : BitVec 5} (h : (u, .wait) ∈ romPlaces p) : u = 1#5 ∨ u = 9#5 := by
  cases p <;> simpa [romPlaces] using h

theorem place_advance {p : SeqIncPhase} {u : BitVec 5} (h : (u, .advance) ∈ romPlaces p) : u = 2#5 ∨ u = 10#5 := by
  cases p <;> simpa [romPlaces] using h

/-- FINC stands where BLOOP leads for another frame. -/
theorem place_finc {p : SeqIncPhase} {u : BitVec 5} (h : (u, .finc) ∈ romPlaces p) : u = bloopAgain p := by
  cases p <;> simpa [romPlaces, bloopAgain] using h

/-- FRST stands where BLOOP leads when the burst is complete. -/
theorem place_frst {p : SeqIncPhase} {u : BitVec 5} (h : (u, .frst) ∈ romPlaces p) : u = bloopDone p := by
  cases p <;> simpa [romPlaces, bloopDone] using h

/-- SEND stands where FINC leads. -/
theorem place_send {p : SeqIncPhase} {u : BitVec 5} (h : (u, .send) ∈ romPlaces p) : u = fincNext p := by
  cases p <;> simpa [romPlaces, fincNext] using h

/-- BLOOP stands where SEND leads. -/
theorem place_bloop {p : SeqIncPhase} {u : BitVec 5} (h : (u, .bloop) ∈ romPlaces p) : u = sendNext p := by
  cases p <;> simpa [romPlaces, sendNext] using h

theorem place_sinc {p : SeqIncPhase} {u : BitVec 5} (h : (u, .sinc) ∈ romPlaces p) :
    (p = .afterBurst ∧ u = 7#5) ∨ (p = .beforeBurst ∧ u = 3#5) := by
  cases p <;> simpa [romPlaces] using h

theorem place_tchk {p : SeqIncPhase} {u : BitVec 5} (h : (u, .tchk) ∈ romPlaces p) : u = 8#5 := by
  cases p <;> simpa [romPlaces] using h

theorem place_halt {p : SeqIncPhase} {u : BitVec 5} (h : (u, .halt) ∈ romPlaces p) : u = 11#5 := by
  cases p <;> simpa [romPlaces] using h

/-! ### The bound -/

theorem withinBound_of_belowBound {q : Nat} {n : Option Nat} (below : belowBound q n) : withinBound q n := by
  cases n with
  | none => trivial
  | some n => exact Nat.le_of_lt below

/-- Below the bound one more burst may be counted. -/
theorem withinBound_succ {q : BitVec 32} {c : Cfg} (below : belowBound q.toNat (bound c)) :
    withinBound (q + 1#32).toNat (bound c) := by
  unfold bound at below ⊢
  split
  · rename_i bounded
    simp only [bounded, if_true, belowBound] at below
    simp only [withinBound]
    have := c.nBursts.isLt
    bv_omega
  · trivial

/-- Below a bound the sequence counter is not at its last value, so it does not wrap (43 R119). -/
theorem ne_last_of_belowBound {q : BitVec 32} {c : Cfg} (bounded : c.nBurstsEn = true)
    (below : belowBound q.toNat (bound c)) : q ≠ 0xFFFFFFFF#32 := by
  simp only [bound, bounded, if_true, belowBound] at below
  have := c.nBursts.isLt
  rintro rfl
  simp at below
  omega

/-- A checked configuration has room for a burst before its bound (40 R92). -/
theorem belowBound_zero {c : Cfg} (checked : firstConfigError c = none) : belowBound 0 (bound c) := by
  obtain ⟨-, -, -, -, -, -, bounded, -⟩ := firstConfigError_none checked
  unfold bound
  split
  · rename_i enabled
    have := bounded enabled
    simp only [belowBound]
    bv_omega
  · trivial

theorem burstSize_pos {c : Cfg} (checked : firstConfigError c = none) : 0 < c.burstSize.toNat := by
  obtain ⟨-, -, -, -, -, burst, -⟩ := firstConfigError_none checked
  bv_omega

/-- TCHK ends the run only at its bound (44 R127). -/
theorem bound_of_runComplete {s : State} (complete : s.runComplete = true) : bound s.cfg = some s.seqId.toNat := by
  simp only [State.runComplete, Bool.and_eq_true, decide_eq_true_eq] at complete
  obtain ⟨bounded, last⟩ := complete
  rw [bound, if_pos bounded, last]

/-- TCHK goes on only below the bound. -/
theorem belowBound_of_not_runComplete {s : State} (incomplete : s.runComplete = false)
    (within : withinBound s.seqId.toNat (bound s.cfg)) : belowBound s.seqId.toNat (bound s.cfg) := by
  unfold bound at within ⊢
  split
  · rename_i bounded
    have notLast : s.seqId ≠ s.cfg.nBursts := by simpa [State.runComplete, bounded] using incomplete
    simp only [bounded, if_true, withinBound] at within
    simp only [belowBound]
    bv_omega
  · trivial

/-! ### The counters from place to place -/

/-- A run starts at place 0 with both counters 0. -/
theorem countersAt_start (p : SeqIncPhase) {b : Nat} {n : Option Nat} : CountersAt p 0 0 b 0 n := by
  cases p <;> exact ⟨rfl, rfl⟩

/-- The counters' values are the same before and after a wait. -/
theorem countersAt_wait {p : SeqIncPhase} {u : BitVec 5} {f b q : Nat} {n : Option Nat} (place : u = 1#5 ∨ u = 9#5)
    (counts : CountersAt p u.toNat f b q n) : CountersAt p (u + 1#5).toNat f b q n := by
  rcases place with rfl | rfl <;> cases p <;> exact counts

/-- ADVANCE finds no frame counted and the sequence counter below the bound, at its first place and at its second. -/
theorem countersAt_advance {p : SeqIncPhase} {u f b q : Nat} {n : Option Nat} (place : u = 2 ∨ u = 10)
    (room : belowBound 0 n) (counts : CountersAt p u f b q n) : f = 0 ∧ belowBound q n := by
  rcases place with rfl | rfl
  · obtain ⟨rfl, rfl⟩ : f = 0 ∧ q = 0 := by cases p <;> exact counts
    exact ⟨rfl, room⟩
  · cases p <;> exact counts

/-- A burst starts at place 3. -/
theorem countersAt_burstStart (p : SeqIncPhase) {b q : Nat} {n : Option Nat} (burst : 0 < b) (below : belowBound q n) :
    CountersAt p 3 0 b q n := by
  cases p with
  | afterBurst => exact ⟨burst, below⟩
  | beforeBurst => exact ⟨rfl, below⟩

/-- FINC finds a frame of the burst still to come. -/
theorem lt_of_countersAt_finc {p : SeqIncPhase} {f b q : Nat} {n : Option Nat}
    (counts : CountersAt p (bloopAgain p).toNat f b q n) : f < b := by
  cases p <;> exact counts.1

theorem countersAt_finc {p : SeqIncPhase} {f b q : Nat} {n : Option Nat}
    (counts : CountersAt p (bloopAgain p).toNat f b q n) : CountersAt p (fincNext p).toNat (f + 1) b q n := by
  cases p <;> exact ⟨Nat.le_add_left 1 f, counts.1, counts.2⟩

theorem countersAt_send {p : SeqIncPhase} {f b q : Nat} {n : Option Nat}
    (counts : CountersAt p (fincNext p).toNat f b q n) : CountersAt p (sendNext p).toNat f b q n := by
  cases p <;> exact counts

theorem countersAt_bloopAgain {p : SeqIncPhase} {f b q : Nat} {n : Option Nat}
    (counts : CountersAt p (sendNext p).toNat f b q n) (more : f < b) :
    CountersAt p (bloopAgain p).toNat f b q n := by
  cases p <;> exact ⟨more, counts.2.2⟩

theorem countersAt_bloopDone {p : SeqIncPhase} {f b q : Nat} {n : Option Nat}
    (counts : CountersAt p (sendNext p).toNat f b q n) (full : b ≤ f) :
    CountersAt p (bloopDone p).toNat f b q n := by
  cases p <;> exact ⟨Nat.le_antisymm counts.2.1 full, counts.2.2⟩

theorem countersAt_frst {p : SeqIncPhase} {f b q : Nat} {n : Option Nat}
    (counts : CountersAt p (bloopDone p).toNat f b q n) : CountersAt p (frstNext p).toNat 0 b q n := by
  cases p <;> exact ⟨rfl, counts.2⟩

/-- SINC finds no frame counted and the sequence counter below the bound, in both phases. -/
theorem countersAt_sinc {p : SeqIncPhase} {u : BitVec 5} {f b q : Nat} {n : Option Nat}
    (place : (u, .sinc) ∈ romPlaces p) (counts : CountersAt p u.toNat f b q n) : f = 0 ∧ belowBound q n := by
  rcases place_sinc place with ⟨rfl, rfl⟩ | ⟨rfl, rfl⟩ <;> exact counts

/-- After SINC the sequence counter is within the bound, before TCHK or before the burst. -/
theorem countersAt_sincNext (p : SeqIncPhase) {b q : Nat} {n : Option Nat} (burst : 0 < b) (within : withinBound q n) :
    CountersAt p (sincNext p).toNat 0 b q n := by
  cases p with
  | afterBurst => exact ⟨rfl, within⟩
  | beforeBurst => exact ⟨burst, within⟩

theorem countersAt_tchk {p : SeqIncPhase} {f b q : Nat} {n : Option Nat} (counts : CountersAt p 8 f b q n) :
    f = 0 ∧ withinBound q n := by
  cases p <;> exact counts

theorem countersAt_cycleWait {p : SeqIncPhase} {f b q : Nat} {n : Option Nat} :
    CountersAt p 9 f b q n ↔ f = 0 ∧ belowBound q n := by
  cases p <;> exact Iff.rfl

theorem countersAt_halt {p : SeqIncPhase} {f b q : Nat} {n : Option Nat} :
    CountersAt p 11 f b q n ↔ f = 0 ∧ n = some q := by
  cases p <;> exact Iff.rfl

end Sys2Proof.Machine
end

section
/-!
O57: the sequencer's operations lead from place to place with the counters' values of R120, a fault or HALT ends the
run at its place, and the host's commands act only on a sequencer at rest.
-/
namespace Sys2Proof.Machine

open Sys2Proof.Safety

/-- `ST_OF` names states in which the sequencer runs only (44 R124). -/
theorem stRuns_of_stOf {u : BitVec 5} {st : St} (h : stOf u = some st) : stRuns st = true := by
  unfold stOf at h
  split_ifs at h <;> cases h <;> rfl

/-- Both places where a WAIT leads have a state (44 R124). -/
theorem stOf_afterWait {u : BitVec 5} {st : St} (place : u = 1#5 ∨ u = 9#5) :
    stOf (u + 1#5) = some ((stOf (u + 1#5)).getD st) := by
  rcases place with rfl | rfl <;> rfl

/-- The code of a ConfigurationError is never 0 (60 R134). -/
theorem configErrorCode_ne_zero (e : ConfigError) : configErrorCode e ≠ 0#8 := by cases e <;> decide

/-- The values the counters have to have where the sequencer stands. -/
def CountsAtPlace (s : State) : Prop :=
  CountersAt s.params.seqIncPhase s.upc.toNat s.frameId.toNat s.cfg.burstSize.toNat s.seqId.toNat (bound s.cfg)

theorem errCode_of_runs {s : State} (hs : SequencerInv s) (runs : stRuns s.st = true) : s.errCode = 0#8 :=
  hs.errorCode.2 fun isError => by simp [isError, stRuns] at runs

/-- A running sequencer that goes on to a place whose values the counters have keeps the invariant. -/
theorem sequencerInv_of_place {s t : State} (hs : SequencerInv s) (runs : stRuns s.st = true) (ordered : Ordered t)
    (errCode : t.errCode = s.errCode) (inRom : stOf t.upc = some t.st) (counts : CountsAtPlace t)
    (noWrap : t.cfg.nBurstsEn = true → t.seqWrapped = false) : SequencerInv t := by
  have runsOn := stRuns_of_stOf inRom
  have isBuilt := ordered.runsIsBuilt runsOn
  have noError := errCode.trans (errCode_of_runs hs runs)
  have atRest {st : St} (rest : stRuns st = false) : t.st ≠ st := fun eq => by simp [eq, rest] at runsOn
  exact {
    toOrdered := ordered
    idleAtZero := fun idle => absurd idle (atRest rfl)
    runsInRom := fun _ => inRom
    runsCount := fun _ => counts
    doneAtHalt := fun done => absurd done (atRest rfl)
    errorStands := fun error => absurd error (atRest rfl)
    unbuiltIsZero := by simp [isBuilt]
    boundedNeverWraps := noWrap
    errorCode := ⟨fun _ => atRest rfl, fun _ => noError⟩ }

/-- A fault of ARM or ADVANCE stops the sequencer where it stands (60 R138). -/
theorem sequencerInv_of_fault {s : State} (hs : SequencerInv s) (runs : stRuns s.st = true) {code : BitVec 8}
    (isCode : code ≠ 0#8)
    (stands : s.upc = 0#5 ∨ (s.upc = 2#5 ∨ s.upc = 10#5) ∧ s.frameId = 0#32 ∧ withinBound s.seqId.toNat (bound s.cfg)) :
    SequencerInv { s with errCode := code, st := .error } where
  slotEmpty := hs.slotEmpty
  validIsChecked := hs.validIsChecked
  builtIsValid := hs.builtIsValid
  runsIsBuilt := nofun
  idleAtZero := nofun
  runsInRom := nofun
  runsCount := nofun
  doneAtHalt := nofun
  errorStands := fun _ => stands.imp_right fun place => ⟨hs.runsIsBuilt runs, place⟩
  unbuiltIsZero := hs.unbuiltIsZero
  boundedNeverWraps := hs.boundedNeverWraps
  errorCode := ⟨fun noCode => absurd noCode isCode, fun noError => absurd rfl noError⟩

/-- HALT ends a bounded run at its bound (10 R17, R23). -/
theorem sequencerInv_of_halt {s t : State} (hs : SequencerInv s) (runs : stRuns s.st = true) (place : s.upc = 11#5)
    (counts : CountsAtPlace s) (he : exec .halt s = .next t) : SequencerInv t := by
  rw [CountsAtPlace, place] at counts
  obtain ⟨frames, atBound⟩ := countersAt_halt.1 counts
  obtain ⟨bounded, last⟩ : s.cfg.nBurstsEn = true ∧ s.cfg.nBursts.toNat = s.seqId.toNat := by
    simpa [bound] using atBound
  have noError := errCode_of_runs hs runs
  cases execHalt_next he
  exact {
    slotEmpty := hs.slotEmpty
    validIsChecked := hs.validIsChecked
    builtIsValid := hs.builtIsValid
    runsIsBuilt := nofun
    idleAtZero := nofun
    runsInRom := nofun
    runsCount := nofun
    doneAtHalt := fun _ => ⟨hs.runsIsBuilt runs, rfl, BitVec.eq_of_toNat_eq frames, bounded,
      BitVec.eq_of_toNat_eq last.symm⟩
    errorStands := nofun
    unbuiltIsZero := hs.unbuiltIsZero
    boundedNeverWraps := hs.boundedNeverWraps
    errorCode := ⟨fun _ => nofun, fun _ => noError⟩ }

/-- The sequencer's operations keep the invariant: each leads to a place where the counters have its values. -/
theorem sequencerInv_micro {s t : State} {i : Instr} (hs : SequencerInv s) (runs : stRuns s.st = true)
    (place : (s.upc, i) ∈ romPlaces s.params.seqIncPhase) (he : exec i s = .next t) : SequencerInv t := by
  have ordered : Ordered t := ordered_keptByMoves.micro hs.toOrdered runs place he
  have checked := ordered_checked hs.toOrdered runs
  have burst := burstSize_pos checked
  have counts : CountsAtPlace s := hs.runsCount runs
  have goOn {t : State} := sequencerInv_of_place (t := t) hs runs
  cases i with
  | arm =>
    have stands := place_arm place
    rw [CountsAtPlace, stands] at counts
    rcases execArm_next he with ⟨-, rfl⟩ | ⟨-, rfl⟩
    · exact goOn ordered rfl rfl counts hs.boundedNeverWraps
    · exact sequencerInv_of_fault hs runs (by decide) (.inl stands)
  | wait =>
    rcases execWait_next he with ⟨-, rfl⟩ | ⟨-, rfl⟩
    · exact goOn ordered rfl (stOf_afterWait (place_wait place)) (countersAt_wait (place_wait place) counts)
        hs.boundedNeverWraps
    · exact hs
  | advance =>
    have stands := place_advance place
    obtain ⟨frames, below⟩ := countersAt_advance (by simpa [← BitVec.toNat_inj] using stands) (belowBound_zero checked)
      counts
    rcases execAdvance_next he with ⟨-, rfl⟩ | ⟨-, rfl⟩
    · exact goOn ordered rfl rfl (by simpa [CountsAtPlace, frames] using countersAt_burstStart _ burst below)
        hs.boundedNeverWraps
    · exact sequencerInv_of_fault hs runs (by decide)
        (.inr ⟨stands, BitVec.eq_of_toNat_eq frames, withinBound_of_belowBound below⟩)
  | finc =>
    rw [CountsAtPlace, place_finc place] at counts
    have more := lt_of_countersAt_finc counts
    have counted : (s.frameId + 1#32).toNat = s.frameId.toNat + 1 := by bv_omega
    cases execFinc_next he
    exact goOn ordered rfl (by cases s.params.seqIncPhase <;> rfl)
      (by simpa only [CountsAtPlace, counted] using countersAt_finc counts) hs.boundedNeverWraps
  | frst =>
    rw [CountsAtPlace, place_frst place] at counts
    cases execFrst_next he
    exact goOn ordered rfl (by cases s.params.seqIncPhase <;> rfl) (countersAt_frst counts) hs.boundedNeverWraps
  | sinc =>
    obtain ⟨frames, below⟩ := countersAt_sinc place counts
    cases execSinc_next he
    refine goOn ordered rfl (by cases s.params.seqIncPhase <;> rfl)
      (by simpa only [CountsAtPlace, frames] using countersAt_sincNext _ burst (withinBound_succ below)) fun bounded => ?_
    simpa [State.wrapFlag, hs.boundedNeverWraps bounded] using ne_last_of_belowBound bounded below
  | send =>
    rw [CountsAtPlace, place_send place] at counts
    obtain ⟨_, -, rfl⟩ := execSend_next he
    exact goOn ordered rfl (by cases s.params.seqIncPhase <;> rfl) (countersAt_send counts) hs.boundedNeverWraps
  | bloop =>
    rw [CountsAtPlace, place_bloop place] at counts
    rcases execBloop_next he with ⟨more, rfl⟩ | ⟨full, rfl⟩
    · exact goOn ordered rfl (by cases s.params.seqIncPhase <;> rfl) (countersAt_bloopAgain counts more)
        hs.boundedNeverWraps
    · exact goOn ordered rfl (by cases s.params.seqIncPhase <;> rfl) (countersAt_bloopDone counts full)
        hs.boundedNeverWraps
  | tchk =>
    rw [CountsAtPlace, place_tchk place] at counts
    obtain ⟨frames, within⟩ := countersAt_tchk counts
    rcases execTchk_next he with ⟨complete, rfl⟩ | ⟨incomplete, rfl⟩
    · exact goOn ordered rfl rfl (countersAt_halt.2 ⟨frames, bound_of_runComplete complete⟩) hs.boundedNeverWraps
    · exact goOn ordered rfl rfl
        (countersAt_cycleWait.2 ⟨frames, belowBound_of_not_runComplete incomplete within⟩)
        hs.boundedNeverWraps
  | halt => exact sequencerInv_of_halt hs runs (place_halt place) counts he
  | _ => cases issuer_of_place place

theorem sequencerInv_keptByMoves : KeptByMoves SequencerInv where
  slot h := h.slotEmpty
  environment h now out agenda sinkQueue clockDraws cmdRej :=
    ⟨ordered_keptByMoves.environment h.toOrdered now out agenda sinkQueue clockDraws cmdRej, h.idleAtZero, h.runsInRom,
      h.runsCount, h.doneAtHalt, h.errorStands, h.unbuiltIsZero, h.boundedNeverWraps, h.errorCode⟩
  reset h :=
    ⟨ordered_keptByMoves.reset h.toOrdered, fun _ => ⟨rfl, rfl, rfl⟩, nofun, nofun, nofun, nofun,
      fun _ => ⟨rfl, rfl, rfl⟩, nofun, ⟨fun _ => nofun, fun _ => rfl⟩⟩
  configured {s} h idle unchecked c :=
    { toOrdered := ordered_keptByMoves.configured h.toOrdered idle unchecked c
      idleAtZero := h.idleAtZero
      runsInRom := h.runsInRom
      runsCount := by simp [idle, stRuns]
      doneAtHalt := by simp [idle]
      errorStands := by simp [idle]
      unbuiltIsZero := h.unbuiltIsZero
      boundedNeverWraps := fun _ => (h.unbuiltIsZero (ordered_unbuilt h.toOrdered unchecked)).2.2
      errorCode := h.errorCode }
  validated h idle unchecked passes :=
    ⟨ordered_keptByMoves.validated h.toOrdered idle unchecked passes, h.idleAtZero, h.runsInRom, h.runsCount,
      h.doneAtHalt, h.errorStands, h.unbuiltIsZero, h.boundedNeverWraps, h.errorCode⟩
  failed h idle unchecked e :=
    ⟨ordered_keptByMoves.failed h.toOrdered idle unchecked e, nofun, nofun, nofun, nofun,
      fun _ => .inl (h.idleAtZero idle).1, h.unbuiltIsZero, h.boundedNeverWraps,
      ⟨fun noCode => absurd noCode (configErrorCode_ne_zero e), fun noError => absurd rfl noError⟩⟩
  built {s} h idle valid unbuilt fits :=
    { toOrdered := ordered_keptByMoves.built h.toOrdered idle valid unbuilt fits
      idleAtZero := fun _ => ⟨(h.idleAtZero idle).1, rfl, rfl⟩
      runsInRom := h.runsInRom
      runsCount := by simp [idle, stRuns]
      doneAtHalt := by simp [idle]
      errorStands := by simp [idle]
      unbuiltIsZero := nofun
      boundedNeverWraps := h.boundedNeverWraps
      errorCode := h.errorCode }
  started {s} h idle valid isBuilt :=
    { toOrdered := ordered_keptByMoves.started h.toOrdered idle valid isBuilt
      idleAtZero := nofun
      runsInRom := fun _ => rfl
      runsCount := fun _ => by
        obtain ⟨-, seqZero, frmZero⟩ := h.idleAtZero idle
        simp only [seqZero, frmZero]
        exact countersAt_start _
      doneAtHalt := nofun
      errorStands := nofun
      unbuiltIsZero := h.unbuiltIsZero
      boundedNeverWraps := h.boundedNeverWraps
      errorCode := ⟨fun _ => nofun, fun _ => h.errorCode.2 (by simp [idle])⟩ }
  micro h runs place he := sequencerInv_micro h runs place he

/-- Settles O57: every place of the micro-program leads to one whose counter values of R120 hold again. -/
theorem stepKeepsTheSequencer : Obligations.StepKeepsTheSequencer :=
  fun _ _ holds h => sequencerInv_keptByMoves.step holds h

end Sys2Proof.Machine
end

section
/-!
The schedule: ARM puts the deadline on the grid of the configured period and ADVANCE keeps it there (42 R104, R110).
From it O58.
-/
namespace Sys2Proof.Machine

open Sys2Proof.Safety

/-- The first deadline is a multiple of the period (42 R104). -/
theorem dvd_firstDeadline (n p : Nat) : p ∣ firstDeadline n p := ⟨ordinal n p + Config.armSkip, Nat.mul_comm ..⟩

/-- Only ARM and ADVANCE touch the schedule: ARM starts it on the grid, and ADVANCE adds one period. -/
theorem scheduleInv_micro {s t : State} {i : Instr} (hs : ScheduleInv s) (runs : stRuns s.st = true)
    (place : (s.upc, i) ∈ romPlaces s.params.seqIncPhase) (he : exec i s = .next t) : ScheduleInv t := by
  have ordered : Ordered t := ordered_keptByMoves.micro hs.toOrdered runs place he
  by_cases arm : i = .arm
  · subst arm
    obtain ⟨-, -, -, -, -, -, -, period⟩ := firstConfigError_none (ordered_checked hs.toOrdered runs)
    rcases execArm_next he with ⟨fits, rfl⟩ | ⟨-, rfl⟩
    · exact ⟨ordered, normalised_ts _, by simpa only [ns_ts fits] using dvd_firstDeadline _ _, fun _ _ => ⟨rfl, period⟩⟩
    · exact ⟨ordered, hs.normal, hs.onGrid, nofun⟩
  have armed := hs.armed runs (mt (place_eq_zero_iff place).1 arm)
  by_cases advance : i = .advance
  · subst advance
    rcases execAdvance_next he with ⟨fits, rfl⟩ | ⟨-, rfl⟩
    · exact ⟨ordered, normalised_ts _, by simpa only [ns_ts fits] using Nat.dvd_add hs.onGrid (Nat.dvd_refl _),
        fun _ _ => armed⟩
    · exact ⟨ordered, hs.normal, hs.onGrid, nofun⟩
  · have sequencer := issuer_of_place place
    have owners := exec_writtenByOwners sequencer he
    have deadline := owners.nextDeadline arm advance
    have period := owners.periodNs arm
    exact ⟨ordered, by rw [deadline]; exact hs.normal, by rw [deadline, period]; exact hs.onGrid,
      fun _ _ => by rw [period, (exec_sequencer sequencer he).cfg]; exact armed⟩

theorem scheduleInv_keptByMoves : KeptByMoves ScheduleInv where
  slot h := h.slotEmpty
  environment h now out agenda sinkQueue clockDraws cmdRej :=
    ⟨ordered_keptByMoves.environment h.toOrdered now out agenda sinkQueue clockDraws cmdRej, h.normal, h.onGrid, h.armed⟩
  reset h := ⟨ordered_keptByMoves.reset h.toOrdered, rfl, Nat.dvd_refl 0, nofun⟩
  configured {s} h idle unchecked c :=
    ⟨ordered_keptByMoves.configured h.toOrdered idle unchecked c, h.normal, h.onGrid, by simp [idle, stRuns]⟩
  validated h idle unchecked passes :=
    ⟨ordered_keptByMoves.validated h.toOrdered idle unchecked passes, h.normal, h.onGrid, h.armed⟩
  failed h idle unchecked e := ⟨ordered_keptByMoves.failed h.toOrdered idle unchecked e, h.normal, h.onGrid, nofun⟩
  built h idle valid unbuilt fits :=
    ⟨ordered_keptByMoves.built h.toOrdered idle valid unbuilt fits, h.normal, h.onGrid, h.armed⟩
  started h idle valid isBuilt :=
    ⟨ordered_keptByMoves.started h.toOrdered idle valid isBuilt, h.normal, h.onGrid, fun _ moved => absurd rfl moved⟩
  micro h runs place he := scheduleInv_micro h runs place he

/-- Settles O58: a deadline on the grid stays on it when a period is added, and RUN starts before ARM's place. -/
theorem stepKeepsTheSchedule : Obligations.StepKeepsTheSchedule :=
  fun _ _ holds h => scheduleInv_keptByMoves.step holds h

end Sys2Proof.Machine
end

section
/-!
What a step may write: the locks and the sticky flags last until reset (O48), and during a run each register has its
owner (O49).
-/
namespace Sys2Proof.Machine

/-! ### The locks and the sticky flags -/

/-- A valid configuration stays valid and as it is, and the sticky flags stay set (10 R25 to R29). -/
def LocksLast (s t : State) : Prop :=
  (s.cfgValid = true → t.cfgValid = true ∧ t.cfg = s.cfg) ∧ (s.built = true → t.built = true) ∧
    (s.seqWrapped = true → t.seqWrapped = true) ∧ (s.cmdRej = true → t.cmdRej = true)

/-- What leaves the configuration, the locks and the flags as they are keeps them. -/
theorem locksLast_of_eq {s t : State} (cfgValid : t.cfgValid = s.cfgValid) (cfg : t.cfg = s.cfg)
    (built : t.built = s.built) (seqWrapped : t.seqWrapped = s.seqWrapped) (cmdRej : t.cmdRej = s.cmdRej) :
    LocksLast s t :=
  ⟨fun valid => ⟨cfgValid.trans valid, cfg⟩, built.trans, seqWrapped.trans, cmdRej.trans⟩

theorem LocksLast.trans {s s1 t : State} (first : LocksLast s s1) (second : LocksLast s1 t) : LocksLast s t := by
  obtain ⟨lock, built, wrapped, rejected⟩ := first
  obtain ⟨lock', built', wrapped', rejected'⟩ := second
  refine ⟨fun valid => ?_, built' ∘ built, wrapped' ∘ wrapped, rejected' ∘ rejected⟩
  obtain ⟨valid1, same1⟩ := lock valid
  obtain ⟨valid2, same2⟩ := lock' valid1
  exact ⟨valid2, same2.trans same1⟩

theorem CommandEffect.locksLast {s t : State} (effect : CommandEffect s t) : LocksLast s t := by
  cases effect with
  | nothing => exact locksLast_of_eq rfl rfl rfl rfl rfl
  | rejected => exact ⟨fun valid => ⟨valid, rfl⟩, id, id, fun _ => rfl⟩
  | validated => exact ⟨fun _ => ⟨rfl, rfl⟩, id, id, id⟩
  | failed _ unchecked => exact ⟨by simp [unchecked], id, id, id⟩
  | built => exact ⟨fun valid => ⟨valid, rfl⟩, fun _ => rfl, id, id⟩
  | started => exact locksLast_of_eq rfl rfl rfl rfl rfl

/-- No operation takes back a lock or a sticky flag, whoever executes it. -/
theorem exec_locksLast {i : Instr} {s t : State} (h : exec i s = .next t) : LocksLast s t := by
  cases issuer : i.issuer with
  | host => exact (exec_command issuer h).locksLast
  | builder =>
    obtain ⟨_, rfl⟩ := exec_builder issuer h
    exact locksLast_of_eq rfl rfl rfl rfl rfl
  | sequencer =>
    have frame := exec_sequencer issuer h
    exact ⟨fun valid => ⟨frame.cfgValid.trans valid, frame.cfg⟩, frame.built.trans, frame.wrapStays, frame.cmdRej.trans⟩

theorem MoveStart.locksLast {s s1 : State} (start : MoveStart s s1) : LocksLast s s1 := by
  rw [start.eq]
  exact locksLast_of_eq rfl rfl rfl rfl rfl

theorem MoveEffect.locksLast {s s1 t : State} (effect : MoveEffect s s1 t) (noReset : s.agenda.head? ≠ some .rst) :
    LocksLast s1 t := by
  cases effect with
  | held | clock | sink | read => exact locksLast_of_eq rfl rfl rfl rfl rfl
  | rst isReset => exact absurd isReset noReset
  | rejected => exact CommandEffect.rejected.locksLast
  | config _ _ _ unchecked => exact ⟨by simp [unchecked], id, id, id⟩
  | command _ _ _ _ he | micro _ _ _ _ _ he => exact exec_locksLast he

/-- Settles O48: whatever the move, an operation or the configuration's write keeps the locks and the flags; a word in
the slot is an operation like any other. -/
theorem locksAndStickyFlagsLast : Obligations.LocksAndStickyFlagsLast := by
  intro s t noReset h
  cases slot : s.microSlot with
  | none =>
    obtain ⟨s1, start, effect⟩ := step_effect slot h
    exact start.locksLast.trans (effect.locksLast noReset)
  | some _ =>
    rcases step_next h with ⟨b, -, ran⟩ | ⟨empty, -⟩ | ⟨empty, -⟩
    · obtain ⟨i, -, he⟩ := runMicroWord_next.1 ran
      have ran := exec_locksLast he
      exact LocksLast.trans (locksLast_of_eq rfl rfl rfl rfl rfl) ran
    all_goals rw [slot] at empty; cases empty

/-! ### The owners of the registers during a run -/

/-- The five owned items as they are. -/
structure OwnedUnchanged (s t : State) : Prop where
  nextDeadline : t.nextDeadline = s.nextDeadline
  periodNs : t.periodNs = s.periodNs
  frameId : t.frameId = s.frameId
  seqId : t.seqId = s.seqId
  fb : t.fb = s.fb

theorem MoveStart.ownedUnchanged {s s1 : State} (start : MoveStart s s1) : OwnedUnchanged s s1 := by
  rw [start.eq]
  exact ⟨rfl, rfl, rfl, rfl, rfl⟩

/-- During a run a move other than reset changes no owned item, or is the operation at the sequencer's place. -/
theorem MoveEffect.of_running {s s1 t : State} (effect : MoveEffect s s1 t) (runs : stRuns s1.st = true)
    (noReset : s.agenda.head? ≠ some .rst) :
    OwnedUnchanged s1 t ∨ ∃ i, (s1.upc, i) ∈ romPlaces s1.params.seqIncPhase ∧ exec i s1 = .next t := by
  cases effect with
  | held | clock | sink | read | rejected => exact .inl ⟨rfl, rfl, rfl, rfl, rfl⟩
  | rst isReset => exact absurd isReset noReset
  | config _ _ idle => simp [idle, stRuns] at runs
  | command i _ _ host he =>
    rcases (exec_command (issuer_of_command host) he).of_running runs with rfl | rfl
    all_goals exact .inl ⟨rfl, rfl, rfl, rfl, rfl⟩
  | micro i _ _ _ place he => exact .inr ⟨i, place, he⟩

/-- Settles O49: an item that changed was written by the operation at the sequencer's place, which is an owner. -/
theorem onlyOwnersWriteDuringARun : Obligations.OnlyOwnersWriteDuringARun := by
  intro s t slot runs noReset h
  obtain ⟨s1, start, effect⟩ := step_effect slot h
  have same := start.ownedUnchanged
  have runs1 : stRuns s1.st = true := by rw [start.eq]; exact runs
  rcases effect.of_running runs1 noReset with unchanged | ⟨i, place, he⟩
  · exact ⟨absurd (unchanged.nextDeadline.trans same.nextDeadline), absurd (unchanged.periodNs.trans same.periodNs),
      absurd (unchanged.frameId.trans same.frameId), absurd (unchanged.seqId.trans same.seqId),
      absurd (unchanged.fb.trans same.fb)⟩
  · have owners := exec_writtenByOwners (issuer_of_place place) he
    have stands : (s.upc, i) ∈ romPlaces s.params.seqIncPhase := by rw [start.eq] at place; exact place
    have word {j : Instr} {b : Byte} (encoded : encode j = .micro b) (is : i = j) :
        romAt s.params.seqIncPhase s.upc = some b := romAt_of_place stands (is ▸ encoded)
    refine ⟨fun changed => ?_, fun changed => ?_, fun changed => ?_, fun changed => ?_, fun changed => ?_⟩
    · have owner : i = .arm ∨ i = .advance := not_imp_comm.1
        (fun no => (owners.nextDeadline (no ∘ .inl) (no ∘ .inr)).trans same.nextDeadline) changed
      exact owner.imp (word rfl) (word rfl)
    · have owner : i = .arm := not_imp_comm.1 (fun no => (owners.periodNs no).trans same.periodNs) changed
      exact word rfl owner
    · have owner : i = .finc ∨ i = .frst := not_imp_comm.1
        (fun no => (owners.frameId (no ∘ .inl) (no ∘ .inr)).trans same.frameId) changed
      exact owner.imp (word rfl) (word rfl)
    · have owner : i = .sinc := not_imp_comm.1 (fun no => (owners.seqId no).trans same.seqId) changed
      exact word rfl owner
    · have owner : i = .finc ∨ i = .frst ∨ i = .sinc := not_imp_comm.1
        (fun no => (owners.fb (no ∘ .inl) (no ∘ .inr ∘ .inl) (no ∘ .inr ∘ .inr)).trans same.fb) changed
      exact owner.imp (word rfl) (.imp (word rfl) (word rfl))

end Sys2Proof.Machine
end

section
/-!
Who reads the clock: every operation but ARM, WAIT, SEND and HALT makes the same of a state whatever the time is, SEND
and HALT record it in one event, and nothing else depends on it. From it O50.
-/
namespace Sys2Proof.Machine

/-- An answer with the time replaced in its next state. -/
def withTime (time : Timestamp) : Result → Result
  | .next s => .next { s with now := time }
  | .fault r => .fault r
  | .refused r => .refused r

/-- A chain reads no clock where neither part does. -/
theorem andThen_withTime {time : Timestamp} {o : Result} {f g : State → Result}
    (rest : ∀ s, f { s with now := time } = withTime time (g s)) :
    andThen (withTime time o) f = withTime time (andThen o g) := by
  cases o with
  | next s => exact rest s
  | fault | refused => rfl

/-- A choice whose condition reads no clock, between answers that read none. -/
theorem ite_withTime {time : Timestamp} {c : Prop} [Decidable c] {yes yes' no no' : Result}
    (ifYes : yes' = withTime time yes) (ifNo : no' = withTime time no) :
    (if c then yes' else no') = withTime time (if c then yes else no) := by
  split
  · exact ifYes
  · exact ifNo

theorem memWrite_withTime (a n v : Nat) (s : State) (time : Timestamp) :
    memWrite a n v { s with now := time } = withTime time (memWrite a n v s) :=
  ite_withTime rfl rfl

theorem memZero_withTime (n : Nat) (s : State) (time : Timestamp) :
    memZero n { s with now := time } = withTime time (memZero n s) :=
  ite_withTime rfl rfl

/-! ### The operations that do not read the clock -/

theorem execValidate_withTime (s : State) (time : Timestamp) :
    execValidate { s with now := time } = withTime time (execValidate s) := by
  refine ite_withTime (c := s.acceptsValidate = true) ?_ rfl
  cases firstConfigError s.cfg <;> rfl

theorem execFbWrTag_withTime (s : State) (time : Timestamp) :
    execFbWrTag { s with now := time } = withTime time (execFbWrTag s) := by
  refine ite_withTime (c := s.cfg.vlanTagged = true) ?_ rfl
  rw [memWrite_withTime]
  exact andThen_withTime fun s1 => memWrite_withTime offTci 2 (tci s.cfg).toNat s1 time

theorem execBuild_withTime (s : State) (time : Timestamp) :
    execBuild { s with now := time } = withTime time (execBuild s) := by
  refine ite_withTime (c := s.acceptsBuild = true) ?_ rfl
  rw [execFbZero, memZero_withTime]
  refine andThen_withTime fun s1 => ?_
  rw [execFbWrDmac, memWrite_withTime]
  refine andThen_withTime fun s2 => ?_
  rw [execFbWrSmac, memWrite_withTime]
  refine andThen_withTime fun s3 => ?_
  rw [execFbWrTag_withTime]
  refine andThen_withTime fun s4 => ?_
  rw [execFbWrEtype, memWrite_withTime]
  exact andThen_withTime fun s5 => rfl

theorem execRun_withTime (s : State) (time : Timestamp) :
    execRun { s with now := time } = withTime time (execRun s) :=
  ite_withTime (c := s.acceptsRun = true) rfl rfl

theorem execAdvance_withTime (s : State) (time : Timestamp) :
    execAdvance { s with now := time } = withTime time (execAdvance s) :=
  ite_withTime (c := fitsTimestamp (ns s.nextDeadline + s.periodNs.toNat) = true) rfl rfl

theorem execFinc_withTime (s : State) (time : Timestamp) :
    execFinc { s with now := time } = withTime time (execFinc s) := by
  rw [execFinc, memWrite_withTime]
  exact andThen_withTime fun _ => rfl

theorem execFrst_withTime (s : State) (time : Timestamp) :
    execFrst { s with now := time } = withTime time (execFrst s) := by
  rw [execFrst, memWrite_withTime]
  exact andThen_withTime fun _ => rfl

theorem execSinc_withTime (s : State) (time : Timestamp) :
    execSinc { s with now := time } = withTime time (execSinc s) := by
  rw [execSinc, memWrite_withTime]
  exact andThen_withTime fun _ => rfl

/-- No operation but ARM and WAIT, and SEND and HALT for their events, reads the clock (10 R31). -/
theorem exec_withTime {i : Instr} (notArm : i ≠ .arm) (notWait : i ≠ .wait) (notSend : i ≠ .send) (notHalt : i ≠ .halt)
    (s : State) (time : Timestamp) : exec i { s with now := time } = withTime time (exec i s) := by
  cases i with
  | arm => exact absurd rfl notArm
  | wait => exact absurd rfl notWait
  | send => exact absurd rfl notSend
  | halt => exact absurd rfl notHalt
  | nop | bloop | tchk => rfl
  | validate => exact execValidate_withTime s time
  | build => exact execBuild_withTime s time
  | run => exact execRun_withTime s time
  | fbZero => exact memZero_withTime (liveLen s.cfg) s time
  | fbWrDmac => exact memWrite_withTime offDmac 6 s.cfg.destMac.toNat s time
  | fbWrSmac => exact memWrite_withTime offSmac 6 s.cfg.srcMac.toNat s time
  | fbWrEtype => exact memWrite_withTime (offEtype s.cfg) 2 s.cfg.ethertype.toNat s time
  | fbWrTag => exact execFbWrTag_withTime s time
  | advance => exact execAdvance_withTime s time
  | finc => exact execFinc_withTime s time
  | frst => exact execFrst_withTime s time
  | sinc => exact execSinc_withTime s time

/-! ### The operations that record the time -/

/-- SEND makes the same of a state at another time, but for the time in its event (44 R125). -/
theorem execSend_withTime {s t : State} (h : execSend s = .next t) (time : Timestamp) :
    ∃ bytes, t.trace = s.trace ++ [.tx bytes s.sinkAnswer (ns s.now)] ∧
      execSend { s with now := time } =
        .next { t with now := time, trace := s.trace ++ [.tx bytes s.sinkAnswer (ns time)] } := by
  obtain ⟨bytes, live, rfl⟩ := execSend_next h
  refine ⟨bytes, rfl, ?_⟩
  unfold execSend
  simp only [live]
  cases s.params.seqIncPhase <;>
    simp [State.setUpc, State.showTx, State.emit, sinkAnswered_eq, State.sinkAnswer, sendNext, stOf]

/-- Settles O50: by whether the operation reads no clock, or is SEND, or is HALT. -/
theorem onlyArmAndWaitReadTheClock : Obligations.OnlyArmAndWaitReadTheClock := by
  intro i s t time notArm notWait h
  by_cases send : i = .send
  · subst send
    obtain ⟨bytes, event, again⟩ := execSend_withTime h time
    exact ⟨_, again, rfl, fun no => absurd rfl no, fun _ => ⟨bytes, s.sinkAnswer, event, rfl⟩, nofun⟩
  by_cases halt : i = .halt
  · subst halt
    cases execHalt_next h
    exact ⟨_, rfl, rfl, fun _ no => absurd rfl no, nofun, fun _ => ⟨rfl, rfl⟩⟩
  · refine ⟨{ t with now := time }, ?_, rfl, fun _ _ => rfl, fun is => absurd is send, fun is => absurd is halt⟩
    rw [exec_withTime notArm notWait send halt, h]
    rfl

end Sys2Proof.Machine
end

section
/-!
What the host reads: the register at an address, and each register's word as a number (10 R33 to R45). From them O38,
O39 and O40.
-/
namespace Sys2Proof.Machine

/-! ### Words as numbers -/

/-- Bits set side by side are a number in base `2 ^ n`. -/
theorem toNat_append_eq_add {m n : Nat} (x : BitVec m) (y : BitVec n) :
    (x ++ y).toNat = x.toNat * 2 ^ n + y.toNat := by
  rw [BitVec.toNat_append, ← Nat.shiftLeft_add_eq_or_of_lt y.isLt, Nat.shiftLeft_eq]

theorem toNat_lowWord {n : Nat} (x : BitVec n) : (x.extractLsb' 0 32).toNat = x.toNat % 2 ^ 32 := by
  rw [BitVec.extractLsb'_toNat, Nat.shiftRight_zero]

/-- The upper word of a 64-bit register. -/
theorem toNat_highWord (x : BitVec 64) : (x.extractLsb' 32 32).toNat = x.toNat / 2 ^ 32 := by
  rw [BitVec.extractLsb'_toNat, Nat.shiftRight_eq_div_pow]
  omega

/-- The upper half word of a MAC address, in the low bits of its register (10 R44). -/
theorem toNat_macHigh (x : BitVec 48) : ((x.extractLsb' 32 16).setWidth 32).toNat = x.toNat / 2 ^ 32 := by
  rw [BitVec.toNat_setWidth, BitVec.extractLsb'_toNat, Nat.shiftRight_eq_div_pow]
  omega

/-- A narrower register stands in the low bits of its word. -/
theorem toNat_widened {n : Nat} (x : BitVec n) (narrow : n ≤ 32) : (x.setWidth 32).toNat = x.toNat :=
  BitVec.toNat_setWidth_of_le narrow

/-- `CFG_VLAN` holds the priority above the VLAN identifier (10 R39). -/
theorem toNat_vlanWord (c : Cfg) :
    BitVec.toNat (w := 32) (0#8 ++ c.vlanPcp ++ c.vlanId) = c.vlanPcp.toNat * 65536 + c.vlanId.toNat := by
  refine (toNat_append_eq_add (0#8 ++ c.vlanPcp) c.vlanId).trans ?_
  simp only [toNat_append_eq_add, BitVec.toNat_ofNat]
  omega

/-- `CFG_CTL` holds the bound's enable above the tag's (10 R40). -/
theorem toNat_ctlWord (c : Cfg) :
    BitVec.toNat (w := 32) (0#30 ++ BitVec.ofBool c.nBurstsEn ++ BitVec.ofBool c.vlanTagged) =
      c.nBurstsEn.toNat * 2 + c.vlanTagged.toNat := by
  refine (toNat_append_eq_add (0#30 ++ BitVec.ofBool c.nBurstsEn) (BitVec.ofBool c.vlanTagged)).trans ?_
  simp only [toNat_append_eq_add, BitVec.toNat_ofBool, BitVec.toNat_ofNat]
  omega

/-- `STATUS` holds the state's code and a flag at each of the bits 3 to 8 (10 R35). -/
theorem toNat_statusWord (s : State) :
    (statusWord s).toNat = (stCode s.st).toNat + 8 * s.cfgValid.toNat + 16 * s.built.toNat + 32 * s.seqWrapped.toNat
      + 64 * s.cmdRej.toNat + 128 * s.done.toNat + 256 * s.error.toNat := by
  refine (toNat_append_eq_add (0#23 ++ BitVec.ofBool s.error ++ BitVec.ofBool s.done ++ BitVec.ofBool s.cmdRej
    ++ BitVec.ofBool s.seqWrapped ++ BitVec.ofBool s.built ++ BitVec.ofBool s.cfgValid) (stCode s.st)).trans ?_
  simp only [toNat_append_eq_add, BitVec.toNat_ofBool, BitVec.toNat_ofNat]
  omega

/-- `FB_LEN` holds the live length in 11 bits (10 R45). -/
theorem toNat_fbLenWord (s : State) :
    (if s.cfgValid then (BitVec.ofNat 11 (liveLen s.cfg)).setWidth 32 else 0#32).toNat =
      if s.cfgValid then liveLen s.cfg % 2 ^ 11 else 0 := by
  split
  · rw [toNat_widened _ (by decide), BitVec.toNat_ofNat]
  · rfl

/-! ### The address map -/

/-- The word a host reads is that of the register its address stands for (40 R96). -/
theorem hostReadWord_of_regOf {s : State} {a : BitVec 12} {r : Reg} (is : regOf a = r) :
    hostReadWord s a = readReg s r := by
  rw [hostReadWord, is]

/-- The number a host reads at the address of a register. -/
theorem hostRead_toNat {s : State} {a : BitVec 12} {w : Word} {n : Nat} (r : Reg) (is : regOf a = r)
    (reads : readReg s r = some w) (value : w.toNat = n) : (hostReadWord s a).map BitVec.toNat = some n := by
  rw [hostReadWord_of_regOf is, reads, Option.map_some, value]

/-- The register depends on the word of the address alone (10 R33). -/
theorem regOf_congr {a c : BitVec 12} (sameWord : a.toNat / 4 = c.toNat / 4) : regOf a = regOf c := by
  simp only [regOf, sameWord]

/-- Beyond the registers and outside the window nothing is mapped (10 R33). -/
theorem regOf_reserved {a : BitVec 12} (gap : 24 ≤ a.toNat / 4) (outside : ¬(512 ≤ a.toNat / 4 ∧ a.toNat / 4 ≤ 891)) :
    regOf a = .reserved := by
  have beyond : lowRegs[a.toNat / 4]? = none := List.getElem?_eq_none gap
  simp only [regOf, beyond, if_neg outside]

/-! ### The obligations -/

/-- Settles O38: each `CFG_*` address is its register's, and the register's word is the fields side by side. -/
theorem configRegistersRead : Obligations.ConfigRegistersRead := fun _ =>
  ⟨hostRead_toNat .cfgEtype rfl rfl (toNat_widened _ (by decide)),
    hostRead_toNat .cfgVlan rfl rfl (toNat_vlanWord _),
    hostRead_toNat .cfgCtl rfl rfl (toNat_ctlWord _),
    hostRead_toNat .cfgFsize rfl rfl (toNat_widened _ (by decide)),
    hostRead_toNat .cfgBurst rfl rfl rfl,
    hostRead_toNat .cfgNbursts rfl rfl rfl,
    hostRead_toNat .cfgCycleLo rfl rfl (toNat_lowWord _),
    hostRead_toNat .cfgCycleHi rfl rfl (toNat_highWord _),
    hostRead_toNat .cfgDmacLo rfl rfl (toNat_lowWord _),
    hostRead_toNat .cfgDmacHi rfl rfl (toNat_macHigh _),
    hostRead_toNat .cfgSmacLo rfl rfl (toNat_lowWord _),
    hostRead_toNat .cfgSmacHi rfl rfl (toNat_macHigh _)⟩

/-- Settles O39: `STATUS` bit by bit, and each mirror the register it shows. -/
theorem statusRegistersRead : Obligations.StatusRegistersRead := by
  intro s
  refine ⟨hostRead_toNat .status rfl rfl ((toNat_statusWord s).trans ?_),
    hostRead_toNat .err rfl rfl (toNat_widened _ (by decide)),
    hostRead_toNat .upc rfl rfl (toNat_widened _ (by decide)),
    hostRead_toNat .seqId rfl rfl rfl,
    hostRead_toNat .frameId rfl rfl rfl,
    hostRead_toNat .dlSecLo rfl rfl (toNat_lowWord _),
    hostRead_toNat .dlSecHi rfl rfl (toNat_highWord _),
    hostRead_toNat .dlNsec rfl rfl rfl,
    hostRead_toNat .periodLo rfl rfl (toNat_lowWord _),
    hostRead_toNat .periodHi rfl rfl (toNat_highWord _),
    hostRead_toNat .fbLen rfl rfl (toNat_fbLenWord s)⟩
  simp only [State.done, State.error]
  cases s.st <;> rfl

/-- Settles O40: the register is the word's, word 0 is `CMD`, and the two gaps of the map are reserved. -/
theorem reservedAddressesReadZero : Obligations.ReservedAddressesReadZero := by
  refine ⟨fun s a c sameWord => by rw [hostReadWord, hostReadWord, regOf_congr sameWord], fun s a zero => ?_⟩
  by_cases command : a.toNat < 4
  · have isCmd : regOf a = .cmd := regOf_congr (c := 0#12) (Nat.div_eq_of_lt command)
    rw [hostReadWord_of_regOf isCmd]
    rfl
  · rw [hostReadWord_of_regOf (regOf_reserved (by omega) (by omega))]
    rfl

end Sys2Proof.Machine
end

section
/-!
The state after reset: O43, and O45 from what each invariant asks of a machine at rest with an empty buffer.
-/
namespace Sys2Proof.Machine

open Sys2Proof.Safety

/-- Settles O43: each register of the reset state is its reset value (10 R47), and an empty buffer has no byte. -/
theorem resetLeavesZero : Obligations.ResetLeavesZero :=
  ⟨rfl, rfl, rfl, rfl, rfl, rfl, rfl, rfl, rfl, rfl, rfl, rfl, rfl, rfl, rfl, rfl, Memory.read_nil⟩

theorem ordered_reset : Ordered State.reset := ⟨rfl, nofun, nofun, nofun⟩

theorem frameInv_reset : FrameInv State.reset := ⟨ordered_reset, reset_fb_wf, fun _ => rfl, nofun⟩

theorem sequencerInv_reset : SequencerInv State.reset where
  toOrdered := ordered_reset
  idleAtZero := fun _ => ⟨rfl, rfl, rfl⟩
  runsInRom := nofun
  runsCount := nofun
  doneAtHalt := nofun
  errorStands := nofun
  unbuiltIsZero := fun _ => ⟨rfl, rfl, rfl⟩
  boundedNeverWraps := nofun
  errorCode := ⟨fun _ => nofun, fun _ => rfl⟩

theorem scheduleInv_reset : ScheduleInv State.reset := ⟨ordered_reset, rfl, Nat.dvd_refl 0, nofun⟩

/-- The default of SPURIOUS_WAKE gives the premise of an early wake (log 4). -/
theorem timingInv_reset : TimingInv State.reset := ⟨rfl, rfl, nofun, nofun, nofun⟩

/-- Settles O45: at reset nothing runs and nothing is built, so each clause is a reset value or asks nothing. -/
theorem invariantsHoldAtReset : Obligations.InvariantsHoldAtReset :=
  ⟨frameInv_reset, sequencerInv_reset, scheduleInv_reset, timingInv_reset⟩

end Sys2Proof.Machine
end

section
/-!
The buffer's accesses (20 R55 to R58): a field is read as the number written there, and a field read as a number is its
two parts side by side. From them O20 and O21.
-/
namespace Sys2Proof.Machine

/-! ### A field written and read back -/

/-- After `MemWrite` the offsets of the field read as its bytes in network byte order (20 R57). -/
theorem read_memWritten_field (m : Memory) (a n v : Nat) {i : Nat} (h : i < n) :
    (m.writeBytes a (netBytes n v)).read (a + i) = (netBytes n v)[i]? := by
  rw [read_memWritten, if_pos (by omega), Nat.add_sub_cancel_left]

/-- An offset outside the field reads as before `MemWrite`. -/
theorem read_memWritten_outside (m : Memory) (a n v : Nat) {c : Nat} (outside : c < a ∨ a + n ≤ c) :
    (m.writeBytes a (netBytes n v)).read c = m.read c := by
  rw [read_memWritten, if_neg (by omega)]

/-- `MemRead` gives back what `MemWrite` stored, modulo the width (20 R56, R57). -/
theorem memRead_memWritten (m : Memory) (a n v : Nat) :
    (m.writeBytes a (netBytes n v)).memRead a n = some (v % 256 ^ n) := by
  have bytes : (m.writeBytes a (netBytes n v)).readBytes a n = some (netBytes n v) :=
    (Memory.readBytes_eq_some ..).2 ⟨netBytes_length .., fun _ inside => read_memWritten_field m a n v inside⟩
  rw [Memory.memRead, bytes, Option.map_some, netNumber_netBytes]

/-- Settles O20: inside the buffer `MemWrite` answers the state with the field's bytes written, and those are read. -/
theorem memReadAfterMemWrite : Obligations.MemReadAfterMemWrite := by
  intro s a n v inside fits
  refine ⟨_, memWrite_of_le v s inside, rfl, ?_, fun i hi => ?_, fun c outside => ?_⟩
  · rw [memRead_memWritten, Nat.mod_eq_of_lt fits]
  · rw [read_memWritten_field s.fb a n v hi, netBytes_getElem? n v i hi]
  · exact read_memWritten_outside s.fb a n v outside

/-! ### A field in two parts -/

/-- Bytes side by side are numbers side by side, in base `256`. -/
theorem netNumber_append (bs bs' : List Byte) :
    netNumber (bs ++ bs') = netNumber bs * 256 ^ bs'.length + netNumber bs' := by
  induction bs with
  | nil => simp [netNumber]
  | cons b bs ih =>
    simp only [List.cons_append, netNumber, ih, List.length_append, pow_add]
    ring

theorem netNumber_lt (bs : List Byte) : netNumber bs < 256 ^ bs.length := by
  induction bs with
  | nil => simp [netNumber]
  | cons b bs ih =>
    have byte : (b.toNat + 1) * 256 ^ bs.length ≤ 256 * 256 ^ bs.length := Nat.mul_le_mul_right _ b.isLt
    rw [netNumber, List.length_cons, pow_succ']
    linarith

/-- Consecutive bytes are read in two parts. -/
theorem Memory.readBytes_add {m : Memory} {a n k : Nat} {bs : List Byte} (h : m.readBytes a (n + k) = some bs) :
    m.readBytes a n = some (bs.take n) ∧ m.readBytes (a + n) k = some (bs.drop n) := by
  obtain ⟨length, bytes⟩ := (Memory.readBytes_eq_some ..).1 h
  refine ⟨(Memory.readBytes_eq_some ..).2 ⟨by simp [length], fun i hi => ?_⟩,
    (Memory.readBytes_eq_some ..).2 ⟨by simp [length], fun i hi => ?_⟩⟩
  · rw [bytes i (by omega), List.getElem?_take_of_lt hi]
  · rw [Nat.add_assoc, bytes (n + i) (by omega), List.getElem?_drop]

/-- The first bytes of a field read as the quotient, the others as the remainder (20 R58). -/
theorem Memory.memRead_add {m : Memory} {a n k v : Nat} (h : m.memRead a (n + k) = some v) :
    m.memRead a n = some (v / 256 ^ k) ∧ m.memRead (a + n) k = some (v % 256 ^ k) := by
  obtain ⟨bs, bytes, rfl⟩ := Option.map_eq_some_iff.1 h
  obtain ⟨high, low⟩ := Memory.readBytes_add bytes
  have lowLength : (bs.drop n).length = k := ((Memory.readBytes_eq_some ..).1 low).1
  have below : netNumber (bs.drop n) < 256 ^ k := lowLength ▸ netNumber_lt (bs.drop n)
  have parts : netNumber bs = netNumber (bs.drop n) + 256 ^ k * netNumber (bs.take n) := by
    rw [Nat.add_comm, Nat.mul_comm, ← lowLength, ← netNumber_append, List.take_append_drop]
  simp only [Memory.memRead, high, low, Option.map_some, parts]
  rw [Nat.add_mul_div_left _ _ (by positivity), Nat.div_eq_of_lt below, Nat.add_mul_mod_self_left,
    Nat.mod_eq_of_lt below, Nat.zero_add]
  exact ⟨rfl, rfl⟩

/-- Settles O21: the two-byte fields are the two halves of the four bytes, and `256 ^ 2` is `65536`. -/
theorem mixedWidthReads : Obligations.MixedWidthReads := fun _ _ _ h => Memory.memRead_add (n := 2) (k := 2) h

end Sys2Proof.Machine
end

section
/-!
The live part of the buffer as others see it: SEND stops at a byte with no value (O33, log 5), and the host's window
shows the live part while the sequencer rests (O41).
-/
namespace Sys2Proof.Machine

/-! ### The hand-over -/

/-- Consecutive bytes cannot be read where one of them has no value. -/
theorem Memory.readBytes_eq_none {m : Memory} {a n i : Nat} (inside : i < n) (unwritten : m.read (a + i) = none) :
    m.readBytes a n = none := by
  refine Option.eq_none_iff_forall_ne_some.2 fun bs read => ?_
  obtain ⟨length, bytes⟩ := (Memory.readBytes_eq_some ..).1 read
  have short : bs.length ≤ i := List.getElem?_eq_none_iff.1 ((bytes i inside).symm.trans unwritten)
  omega

/-- SEND has no bytes to hand over where the live part cannot be read. -/
theorem execSend_of_unreadable {s : State} (unreadable : s.fb.readBytes 0 (liveLen s.cfg) = none) :
    execSend s = .fault .fbUnspecified := by
  simp only [execSend, unreadable]

/-- Settles O33: a byte with no value makes the live part unreadable. -/
theorem sendStopsOnUnwrittenBytes : Obligations.SendStopsOnUnwrittenBytes := fun _ a live unwritten =>
  execSend_of_unreadable (Memory.readBytes_eq_none live ((Nat.zero_add a).symm ▸ unwritten))

/-! ### The read window -/

/-- The window lies at 0x800 to 0xDEC, one word of the buffer a register (10 R33). -/
theorem regOf_window {k : Nat} (h : k ≤ 379) : regOf (BitVec.ofNat 12 (0x800 + 4 * k)) = .fbWin k := by
  have word : (BitVec.ofNat 12 (0x800 + 4 * k)).toNat / 4 = 512 + k := by
    rw [BitVec.toNat_ofNat]
    omega
  have beyond : lowRegs[512 + k]? = none := List.getElem?_eq_none (show 24 ≤ 512 + k by omega)
  simp only [regOf, word, beyond]
  rw [if_pos (by omega), Nat.add_sub_cancel_left]

/-- The host reads the window's word at the window's address. -/
theorem hostReadWord_window (s : State) {k : Nat} (h : k ≤ 379) :
    hostReadWord s (BitVec.ofNat 12 (0x800 + 4 * k)) = windowWord s k :=
  hostReadWord_of_regOf (regOf_window h)

/-- A byte of the window is the buffer's within the live part, and 0 beyond it (20 R62). -/
theorem windowByte_eq_some {s : State} {a : Nat} {b : Byte}
    (shows : if a < liveLen s.cfg then s.fb.read a = some b else b = 0#8) : windowByte s a = some b := by
  unfold windowByte
  split at shows
  · rw [if_pos ‹_›, shows]
  · rw [if_neg ‹_›, shows]

/-- The window is open where the sequencer has no step (20 R62, 44 R122). -/
theorem windowState_eq_not_stRuns (st : St) : windowState st = !stRuns st := by
  cases st <;> rfl

theorem stRuns_iff (st : St) : stRuns st = true ↔ st = .arming ∨ st = .burstSending ∨ st = .cycleWaiting := by
  cases st <;> simp [stRuns]

theorem stRests_iff (st : St) : stRuns st = false ↔ st = .idle ∨ st = .done ∨ st = .error := by
  cases st <;> simp [stRuns]

/-- The open window shows four bytes, the first in the highest bits (20 R62). -/
theorem windowWord_of_rest {s : State} {k : Nat} {b0 b1 b2 b3 : Byte} (isBuilt : s.built = true)
    (rests : stRuns s.st = false) (byte0 : windowByte s (4 * k) = some b0) (byte1 : windowByte s (4 * k + 1) = some b1)
    (byte2 : windowByte s (4 * k + 2) = some b2) (byte3 : windowByte s (4 * k + 3) = some b3) :
    windowWord s k = some (b0 ++ b1 ++ b2 ++ b3) := by
  have isOpen : s.windowOpen = true := by simp [State.windowOpen, isBuilt, windowState_eq_not_stRuns, rests]
  simp only [windowWord, isOpen, if_true, byte0, byte1, byte2, byte3]

/-- The window is closed before BUILD and during a run, and then reads 0 (20 R62). -/
theorem windowWord_of_closed {s : State} (k : Nat) (closed : s.built = false ∨ stRuns s.st = true) :
    windowWord s k = some 0#32 := by
  have notOpen : s.windowOpen = false := by
    rcases closed with unbuilt | runs
    · simp [State.windowOpen, unbuilt]
    · simp [State.windowOpen, windowState_eq_not_stRuns, runs]
  simp [windowWord, notOpen]

/-- Settles O41: the address is the window's, and the window is open on the built buffer of a resting sequencer. -/
theorem readWindowShowsTheBuffer : Obligations.ReadWindowShowsTheBuffer := by
  intro s k inside
  rw [hostReadWord_window s inside]
  constructor
  · intro isBuilt rests b0 b1 b2 b3 byte0 byte1 byte2 byte3
    exact windowWord_of_rest isBuilt ((stRests_iff _).2 rests) (windowByte_eq_some byte0) (windowByte_eq_some byte1)
      (windowByte_eq_some byte2) (windowByte_eq_some byte3)
  · intro closed
    exact windowWord_of_closed k (closed.imp_right (stRuns_iff _).2)

end Sys2Proof.Machine
end

section
/-!
A run and the other agents (20 R69): during a run no move but reset and the sequencer's own writes the block, except for
the rejection of a command. From it O47.
-/
namespace Sys2Proof.Machine

/-- What HOST, CLOCK and SINK can write while the sequencer runs: `cmd_rej`, the time, the ports and SINK's queue. -/
def RunUndisturbed (s t : State) : Prop :=
  t = { s with cmdRej := t.cmdRej, now := t.now, out := t.out, sinkQueue := t.sinkQueue }

theorem CommandEffect.runUndisturbed {s t : State} (effect : CommandEffect s t) (runs : stRuns s.st = true) :
    RunUndisturbed s t := by
  rcases effect.of_running runs with rfl | rfl <;> rfl

/-- A move that is neither reset nor the sequencer's does not disturb a run. -/
theorem MoveEffect.runUndisturbed {s s1 t : State} (effect : MoveEffect s s1 t) (runs : stRuns s1.st = true)
    (listed : s.agenda ≠ []) (noReset : s.agenda.head? ≠ some .rst) (noSeq : s.agenda.head? ≠ some .seq) :
    RunUndisturbed s1 t := by
  cases effect with
  | held | clock | sink | read | rejected => rfl
  | rst isReset => exact absurd isReset noReset
  | config _ _ idle => simp [idle, stRuns] at runs
  | command i _ _ host he => exact (exec_command (issuer_of_command host) he).runUndisturbed runs
  | micro _ _ _ seq => exact absurd seq (not_or.2 ⟨noSeq, listed⟩)

/-- A listed move starts from the state with the move taken from the agenda and the outputs quiet. -/
theorem MoveStart.eq_of_listed {s s1 : State} {m : Move} {rest : List Move} (start : MoveStart s s1)
    (listed : s.agenda = m :: rest) : s1 = { s with agenda := rest, out := Ports.quiet } := by
  obtain ⟨now, draws⟩ := start.listed (by simp [listed])
  rw [start.eq, start.agenda, now, draws, listed, List.tail_cons]

/-- Settles O47: the move starts from the same block, and it is neither of the two that could disturb the run. -/
theorem hostCannotDisturbTheRun : Obligations.HostCannotDisturbTheRun := by
  intro s t m rest slot runs listed noReset noSeq h
  obtain ⟨s1, start, effect⟩ := step_effect slot h
  obtain rfl := start.eq_of_listed listed
  exact effect.runUndisturbed runs (by simp [listed]) (by simpa [listed]) (by simpa [listed])

end Sys2Proof.Machine
end

section
/-!
The encoding (30 R80 to R83): what a table of opcodes gives, the decoder said once as conditions on the word, and from
them O1 to O4.
-/
namespace Sys2Proof

/-! ### A table of opcodes -/

/-- What a table gives for an opcode is one of its rows. -/
theorem mem_of_lookupOpcode {rows : List (Byte × Instr)} {b : Byte} {i : Instr} (h : lookupOpcode rows b = some i) :
    (b, i) ∈ rows := by
  induction rows with
  | nil => cases h
  | cons row rows ih =>
    rw [lookupOpcode] at h
    split at h
    · obtain rfl : b = row.1 := ‹_›
      cases h
      exact List.mem_cons_self
    · exact List.mem_cons_of_mem row (ih h)

/-- A table gives an operation for exactly the opcodes it lists. -/
theorem exists_lookupOpcode_iff {rows : List (Byte × Instr)} {b : Byte} :
    (∃ i, lookupOpcode rows b = some i) ↔ b ∈ rows.map Prod.fst := by
  induction rows with
  | nil => simp [lookupOpcode]
  | cons row rows ih =>
    rw [lookupOpcode, List.map_cons, List.mem_cons, ← ih]
    split <;> simp [*]

/-- The host's opcodes are 0x00 to 0x03 (30 R81). -/
theorem mem_hostOpcodes_iff (b : Byte) : b ∈ hostOpcodes.map Prod.fst ↔ b.toNat ≤ 3 := by
  simp only [hostOpcodes, List.map_cons, List.map_nil, List.mem_cons, List.not_mem_nil, or_false]
  bv_omega

/-- The micro-operations' opcodes are the functions assigned in their class (30 R82). -/
theorem mem_microOpcodes_iff (b : Byte) :
    b ∈ microOpcodes.map Prod.fst ↔ (b.extractLsb' 0 4).toNat ∈ microFunctions (b.extractLsb' 4 4).toNat := by
  have cls : (b.extractLsb' 4 4).toNat = b.toNat / 16 := by
    rw [BitVec.extractLsb'_toNat, Nat.shiftRight_eq_div_pow]
    omega
  have function : (b.extractLsb' 0 4).toNat = b.toNat % 16 := by
    rw [BitVec.extractLsb'_toNat, Nat.shiftRight_zero]
  simp only [cls, function, microFunctions, microOpcodes, List.map_cons, List.map_nil, List.mem_cons,
    List.not_mem_nil, or_false, ← BitVec.toNat_inj, BitVec.toNat_ofNat]
  split_ifs <;> simp only [List.mem_cons, List.not_mem_nil, or_false, iff_false] <;> omega

/-! ### The decoder -/

/-- All that a command word can decode to (30 R80, R81). -/
theorem decodeCommand_ok {w : Word} {i : Instr} :
    decodeCommand w = .ok i ↔
      w.extractLsb' 8 24 = 0#24 ∧ lookupOpcode hostOpcodes (w.extractLsb' 0 8) = some i := by
  unfold decodeCommand
  split
  · split <;> simp [*]
  · simp [*]

/-- All that a format M word can decode to (30 R82). -/
theorem decodeMicro_ok {b : Byte} {i : Instr} : decodeMicro b = .ok i ↔ lookupOpcode microOpcodes b = some i := by
  unfold decodeMicro
  split <;> simp [*]

/-- Settles O1: each operation's word holds the opcode of its row in the tables. -/
theorem decodeOfEncode : Obligations.DecodeOfEncode := by
  intro i
  cases i with
  | nop | validate | build | run => rfl
  | fbZero | fbWrDmac | fbWrSmac | fbWrTag | fbWrEtype => rfl
  | arm | wait | advance => rfl
  | finc | frst | sinc => rfl
  | send | bloop | tchk | halt => rfl

/-- Settles O4: the words written out are those the encoder gives. -/
theorem wordsOfTheTableDecode : Obligations.WordsOfTheTableDecode :=
  ⟨decodeOfEncode .validate, decodeOfEncode .build, decodeOfEncode .fbWrTag, decodeOfEncode .advance,
    decodeOfEncode .sinc, decodeOfEncode .send, decodeOfEncode .halt⟩

/-- The word of a host command is its opcode in the table, below 24 zero bits (30 R80, R81). -/
theorem encode_of_mem_hostOpcodes {op : Byte} {i : Instr} (row : (op, i) ∈ hostOpcodes) :
    encode i = .command (0#24 ++ op) := by
  have all : ∀ x ∈ hostOpcodes, encode x.2 = .command (0#24 ++ x.1) := by decide
  exact all _ row

/-- The word of a micro-operation is its opcode in the table (30 R82). -/
theorem encode_of_mem_microOpcodes {op : Byte} {i : Instr} (row : (op, i) ∈ microOpcodes) : encode i = .micro op := by
  have all : ∀ x ∈ microOpcodes, encode x.2 = .micro x.1 := by decide
  exact all _ row

/-- Settles O3: what decodes stands in the table with the word's opcode, and the rest of a command word is zero. -/
theorem decodedWordIsTheEncoding : Obligations.DecodedWordIsTheEncoding := by
  intro e i h
  cases e with
  | command w =>
    obtain ⟨zeroField, row⟩ := decodeCommand_ok.1 h
    have whole : w.extractLsb' 8 24 ++ w.extractLsb' 0 8 = w :=
      (BitVec.extractLsb'_append_extractLsb'_eq_extractLsb' rfl).trans BitVec.extractLsb'_eq_self
    rw [encode_of_mem_hostOpcodes (mem_of_lookupOpcode row), ← zeroField, whole]
  | micro b => exact encode_of_mem_microOpcodes (mem_of_lookupOpcode (decodeMicro_ok.1 h))

/-- Settles O2: a word decodes where its opcode is listed, and the listed opcodes are the assigned ones. -/
theorem decodeAcceptsExactlyWellFormed : Obligations.DecodeAcceptsExactlyWellFormed := by
  intro e
  cases e with
  | command w =>
    simp only [decode, decodeCommand_ok, exists_and_left, exists_lookupOpcode_iff, mem_hostOpcodes_iff,
      Encoded.wellFormed, commandZeroField, commandOpcodeKnown, Bool.and_eq_true, beq_iff_eq, decide_eq_true_eq]
  | micro b =>
    have classOfFunction : microFunctionKnown b = true → microClassKnown b = true := by
      simp only [microFunctionKnown, microClassKnown, List.contains_iff_mem, bne_iff_ne]
      exact List.ne_nil_of_mem
    simp only [decode, decodeMicro_ok, exists_lookupOpcode_iff, mem_microOpcodes_iff, Encoded.wellFormed,
      Bool.and_eq_true, and_iff_right_of_imp classOfFunction]
    simp only [microFunctionKnown, List.contains_iff_mem]

end Sys2Proof
end

section
/-!
One step is one move (00 R7): the move listed next, or the sequencer's after CLOCK's free step. From it O8.
-/
namespace Sys2Proof.Machine

/-- A listed move is made with the outputs quiet and the move taken from the agenda. -/
theorem step_of_listed {s : State} {m : Move} {rest : List Move} (slot : s.microSlot = none)
    (listed : s.agenda = m :: rest) : step s = perform m { s with agenda := rest, out := Ports.quiet } := by
  simp only [step, nextMove, State.beginStep, slot, listed]

/-- With no move listed the sequencer moves after CLOCK's free step (log 2). -/
theorem step_of_unlisted {s : State} (slot : s.microSlot = none) (unlisted : s.agenda = []) :
    step s = perform .seq s.beginStep.clockTick := by
  simp only [step, nextMove, State.beginStep, slot, unlisted, perform]

/-- Every step is a move from the state it starts from, where no word stands in the slot. -/
theorem step_eq_perform {s : State} (slot : s.microSlot = none) :
    ∃ m s1, MoveStart s s1 ∧ step s = perform m s1 := by
  cases agenda : s.agenda with
  | nil =>
    exact ⟨.seq, s.beginStep.clockTick,
      ⟨rfl, by simp [agenda, State.clockTick, State.beginStep], drawnTime_ge s, fun listed => absurd agenda listed⟩,
      step_of_unlisted slot agenda⟩
  | cons m rest =>
    exact ⟨m, { s with agenda := rest, out := Ports.quiet },
      ⟨rfl, by simp [agenda], Nat.le_refl _, fun _ => ⟨rfl, rfl⟩⟩, step_of_listed slot agenda⟩

/-- The micro-program has no word at 12 to 31 (44 R123). -/
theorem romAt_of_ge (p : SeqIncPhase) {u : BitVec 5} (outside : 12 ≤ u.toNat) : romAt p u = none := by
  have length : (rom p).length = 12 := by cases p <;> rfl
  exact List.getElem?_eq_none (length.trans_le outside)

/-- Where it runs and fetches no word, the sequencer is stuck (30 R83; log 9). -/
theorem seqStep_of_noWord {s : State} (runs : stRuns s.st = true) (noWord : romAt s.params.seqIncPhase s.upc = none) :
    seqStep s = .fault (.sequencerStuck s.upc) := by
  simp only [seqStep, runs, if_true, fetchMicroWord, noWord]

/-- Settles O8: the sequencer's listed move fetches where the micro-program has no word. -/
theorem sequencerStuckOutsideRom : Obligations.SequencerStuckOutsideRom := by
  intro s rest slot listed runs outside
  rw [step_of_listed slot listed]
  exact seqStep_of_noWord runs (romAt_of_ge _ outside)

end Sys2Proof.Machine
end

section
/-!
O51: where each operation and each move answers a next state. The conditions are the live part within the buffer for
BUILD, values in all of the live part for SEND and the read window, and `upc` within the micro-program.
-/
namespace Sys2Proof.Machine

open Sys2Proof.Safety

/-- An answer that is a next state: neither a fault nor a refusal. -/
def GoesOn (o : Result) : Prop := ∃ t, o = .next t

@[simp] theorem goesOn_next (s : State) : GoesOn (.next s) := ⟨s, rfl⟩

/-- A chain goes on where its first part does and the rest does from any state. -/
theorem GoesOn.andThen {o : Result} {f : State → Result} (first : GoesOn o) (rest : ∀ s, GoesOn (f s)) :
    GoesOn (andThen o f) := by
  obtain ⟨s, rfl⟩ := first
  exact rest s

theorem GoesOn.ite {c : Prop} [Decidable c] {yes no : Result} (ifYes : c → GoesOn yes) (ifNo : GoesOn no) :
    GoesOn (if c then yes else no) := by
  split
  · exact ifYes ‹_›
  · exact ifNo

/-- `MemWrite` goes on inside the buffer (20 R57). -/
theorem goesOn_memWrite {a n : Nat} (v : Nat) (s : State) (inside : a + n ≤ Config.fbCapacity) :
    GoesOn (memWrite a n v s) := ⟨_, memWrite_of_le v s inside⟩

/-! ### The host's commands -/

/-- FB_ZERO goes on where the live part fits the buffer (20 R52). -/
theorem goesOn_execFbZero {s : State} (fits : liveLen s.cfg ≤ Config.fbCapacity) : GoesOn (execFbZero s) :=
  ⟨_, memZero_next.2 ⟨fits, rfl⟩⟩

theorem goesOn_execFbWrTag (s : State) : GoesOn (execFbWrTag s) :=
  .ite (fun _ => (goesOn_memWrite _ s (by decide)).andThen fun s1 => goesOn_memWrite _ s1 (by decide)) (goesOn_next s)

/-- BUILD goes on: it is accepted only with a checked configuration, whose live part fits the buffer (40 R93). -/
theorem goesOn_execBuild {s : State} (ordered : Ordered s) : GoesOn (execBuild s) := by
  refine .ite (fun accepted => ?_) (goesOn_next _)
  have valid : s.cfgValid = true := by
    simp only [State.acceptsBuild, Bool.and_eq_true] at accepted
    exact accepted.1.2
  obtain ⟨-, fits⟩ := liveLen_bounds (ordered.validIsChecked valid)
  exact (goesOn_execFbZero fits).andThen fun s1 =>
    (goesOn_memWrite _ s1 (by decide)).andThen fun s2 =>
    (goesOn_memWrite _ s2 (by decide)).andThen fun s3 =>
    (goesOn_execFbWrTag s3).andThen fun s4 =>
    (goesOn_memWrite _ s4 (offEtype_bound s4.cfg)).andThen fun _ => goesOn_next _

/-- Every host command goes on: one that is not accepted is rejected, which is a next state (60 R139). -/
theorem goesOn_exec_command {i : Instr} {s : State} (host : i.issuer = .host) (ordered : Ordered s) :
    GoesOn (exec i s) := by
  cases i with
  | nop => exact goesOn_next s
  | validate =>
    refine .ite (fun _ => ?_) (goesOn_next _)
    cases firstConfigError s.cfg <;> exact goesOn_next _
  | build => exact goesOn_execBuild ordered
  | run => exact .ite (fun _ => goesOn_next _) (goesOn_next _)
  | _ => cases host

/-! ### The sequencer's operations -/

/-- A built buffer has a value at every offset of the live part (20 R49). -/
theorem exists_read_of_built {s : State} (frame : FrameInv s) (isBuilt : s.built = true) {a : Nat}
    (live : a < liveLen s.cfg) : ∃ b, s.fb.read a = some b := by
  have length := frameImage_length (p := s.params) (q := s.seqId) (f := s.frameId)
    (frame.validIsChecked (frame.builtIsValid isBuilt))
  exact ⟨_, (frame.builtIsFrame isBuilt a).trans (List.getElem?_eq_getElem (length.symm ▸ live))⟩

/-- The live part of a built buffer reads as the frame. -/
theorem readBytes_of_built {s : State} (frame : FrameInv s) (isBuilt : s.built = true) :
    s.fb.readBytes 0 (liveLen s.cfg) = some (frameImage s.params s.cfg s.seqId s.frameId) :=
  (Memory.readBytes_eq_some ..).2
    ⟨frameImage_length (frame.validIsChecked (frame.builtIsValid isBuilt)), fun i _ => by
      rw [Nat.zero_add, frame.builtIsFrame isBuilt]⟩

/-- SEND goes on over a built buffer (44 R125). -/
theorem goesOn_execSend {s : State} (frame : FrameInv s) (isBuilt : s.built = true) : GoesOn (execSend s) := by
  simp only [execSend, readBytes_of_built frame isBuilt, goesOn_next]

/-- Every operation of the sequencer goes on over a built buffer: a time that does not fit is a next state (60 R138),
and the counters' fields lie inside the buffer. -/
theorem goesOn_exec_sequencer {i : Instr} {s : State} (sequencer : i.issuer = .sequencer) (frame : FrameInv s)
    (isBuilt : s.built = true) : GoesOn (exec i s) := by
  cases i with
  | arm | wait | advance => exact .ite (fun _ => goesOn_next _) (goesOn_next _)
  | finc | frst => exact (goesOn_memWrite _ s (offFrm_bound s.cfg)).andThen fun _ => goesOn_next _
  | sinc => exact (goesOn_memWrite _ s (offSeq_bound s.cfg)).andThen fun _ => goesOn_next _
  | send => exact goesOn_execSend frame isBuilt
  | bloop | tchk | halt => exact goesOn_next _
  | _ => cases sequencer

/-! ### The moves -/

/-- `ST_OF` is defined on the first twelve places only (44 R124). -/
theorem lt_of_stOf {u : BitVec 5} {st : St} (h : stOf u = some st) : u.toNat < 12 := by
  unfold stOf at h
  split_ifs at h <;> omega

/-- The sequencer's move goes on: where it runs, a word is fetched, and it is an operation of the sequencer. -/
theorem goesOn_seqStep {s : State} (frame : FrameInv s) (sequencer : SequencerInv s) : GoesOn (seqStep s) := by
  refine .ite (fun runs => ?_) (goesOn_next s)
  obtain ⟨b, i, fetched, decoded⟩ := romAt_of_lt s.params.seqIncPhase s.upc (lt_of_stOf (sequencer.runsInRom runs))
  have issuer : i.issuer = .sequencer := issuer_of_place (fetched_place _ _ _ _ fetched decoded)
  simp only [fetchMicroWord, fetched, runMicroWord, decoded]
  exact goesOn_exec_sequencer issuer frame (frame.runsIsBuilt runs)

/-- What a word in `CMD` decodes to is the host's (30 R79, R81). -/
theorem issuer_of_decodeCommand {w : Word} {i : Instr} (h : decodeCommand w = .ok i) : i.issuer = .host := by
  have all : ∀ x ∈ hostOpcodes, x.2.issuer = .host := by decide
  exact all _ (mem_of_lookupOpcode (decodeCommand_ok.1 h).2)

theorem goesOn_hostWrite (a : BitVec 12) (w : Word) {s : State} (ordered : Ordered s) : GoesOn (hostWrite a w s) := by
  unfold hostWrite
  split
  · unfold writeCommand
    split
    · exact goesOn_exec_command (issuer_of_decodeCommand ‹_›) ordered
    · exact goesOn_next _
  · exact goesOn_next _

/-- Each byte of the window of a built buffer has a value (20 R62). -/
theorem exists_windowByte {s : State} (frame : FrameInv s) (isBuilt : s.built = true) (a : Nat) :
    ∃ b, windowByte s a = some b := by
  unfold windowByte
  split
  · exact exists_read_of_built frame isBuilt ‹_›
  · exact ⟨0#8, rfl⟩

/-- Each word of the window has a value: the open window shows a built buffer (20 R62). -/
theorem exists_windowWord {s : State} (frame : FrameInv s) (k : Nat) : ∃ w, windowWord s k = some w := by
  unfold windowWord
  split
  · have isBuilt : s.built = true := by
      have isOpen : s.windowOpen = true := ‹_›
      simp only [State.windowOpen, Bool.and_eq_true] at isOpen
      exact isOpen.1
    have byte := exists_windowByte frame isBuilt
    obtain ⟨b0, byte0⟩ := byte (4 * k)
    obtain ⟨b1, byte1⟩ := byte (4 * k + 1)
    obtain ⟨b2, byte2⟩ := byte (4 * k + 2)
    obtain ⟨b3, byte3⟩ := byte (4 * k + 3)
    exact ⟨b0 ++ b1 ++ b2 ++ b3, by simp only [byte0, byte1, byte2, byte3]⟩
  · exact ⟨0#32, rfl⟩

/-- Every register reads as a word, the window's by the buffer's invariant (40 R96). -/
theorem exists_readReg {s : State} (frame : FrameInv s) (r : Reg) : ∃ w, readReg s r = some w := by
  cases r with
  | fbWin k => exact exists_windowWord frame k
  | _ => exact ⟨_, rfl⟩

theorem goesOn_hostRead (a : BitVec 12) {s : State} (frame : FrameInv s) : GoesOn (hostRead a s) := by
  obtain ⟨w, reads⟩ := exists_readReg frame (regOf a)
  simp only [hostRead, hostReadWord, reads, goesOn_next]

/-- Every move of every agent goes on. -/
theorem goesOn_perform (m : Move) {s : State} (frame : FrameInv s) (sequencer : SequencerInv s) :
    GoesOn (perform m s) := by
  cases m with
  | hostWrite a w => exact goesOn_hostWrite a w frame.toOrdered
  | hostRead a => exact goesOn_hostRead a frame
  | seq => exact goesOn_seqStep frame sequencer
  | rst | clock | sink => exact goesOn_next _

/-- Settles O51: a step is a move from a state that still meets both invariants, and from there every move goes on. -/
theorem noStepStops : Obligations.NoStepStops := by
  intro s frame sequencer
  obtain ⟨m, s1, start, isMove⟩ := step_eq_perform frame.slotEmpty
  rw [isMove]
  exact goesOn_perform m (frameInv_keptByMoves.start frame start) (sequencerInv_keptByMoves.start sequencer start)

end Sys2Proof.Machine
end

section
/-!
The host commands (40 R91 to R94): when each is accepted, what it then answers, and BUILD from its five operations. From
them O9 to O14.
-/
namespace Sys2Proof.Machine

open Sys2Proof.Safety

/-- Settles O9: NOP's meaning is its state. -/
theorem nopChangesNothing : Obligations.NopChangesNothing := fun _ => rfl

/-! ### VALIDATE -/

/-- What VALIDATE makes of a state it accepts, by the first check that fails, if one does (40 R92, 60 R135). -/
def State.validated (s : State) : Option ConfigError → State
  | some e => { s with errCode := configErrorCode e, st := .error, cfgValid := false }
  | none => { s with cfgValid := true }

/-- VALIDATE accepted answers by the first failing check. -/
theorem execValidate_of_accepted {s : State} (idle : s.st = .idle) (unchecked : s.cfgValid = false) :
    execValidate s = .next (s.validated (firstConfigError s.cfg)) := by
  have accepted : s.acceptsValidate = true := by simp [State.acceptsValidate, idle, unchecked]
  rw [execValidate, if_pos accepted]
  cases firstConfigError s.cfg with
  | none => rfl
  | some e => rfl

/-- Settles O10: the checks stand in the model in the order of the rule, and the answer is taken after each of them. -/
theorem validateChecksInOrder : Obligations.ValidateChecksInOrder := by
  intro s idle unchecked
  refine (execValidate_of_accepted idle unchecked).trans (congrArg _ ?_)
  simp only [firstConfigError, apply_ite s.validated]
  rfl

/-- A configuration within the ranges of 10 R24 fails no check. -/
theorem firstConfigError_of_inRange {c : Cfg} (ethertype : c.ethertype.toNat ≤ Config.ethertypeMax)
    (vlanId : c.vlanId.toNat ≤ Config.vlanIdMax) (vlanPcp : c.vlanPcp.toNat ≤ Config.vlanPcpMax)
    (notShort : Config.minFrame ≤ c.frameSize.toNat) (notLong : c.frameSize.toNat ≤ maxFrame c)
    (burst : c.burstSize ≠ 0#32) (bounded : c.nBurstsEn = true → c.nBursts ≠ 0#32) (cycle : c.cycleTimeNs ≠ 0#64) :
    firstConfigError c = none := by
  rw [firstConfigError, if_neg ethertype.not_gt, if_neg vlanId.not_gt, if_neg vlanPcp.not_gt,
    if_neg (not_or.2 ⟨notShort.not_gt, notLong.not_gt⟩), if_neg burst, if_neg (not_and.2 bounded), if_neg cycle]

/-- Settles O11: with every field in its range no check fails. -/
theorem validateAcceptsLegalConfig : Obligations.ValidateAcceptsLegalConfig := by
  intro s idle unchecked ethertype vlanId vlanPcp notShort notLong burst bounded cycle
  have nonzero {n : Nat} {x : BitVec n} (positive : 1 ≤ x.toNat) : x ≠ 0#n := by
    rintro rfl
    simp at positive
  have passes : firstConfigError s.cfg = none := firstConfigError_of_inRange ethertype vlanId vlanPcp notShort notLong
    (nonzero burst) (fun enabled => nonzero (bounded enabled)) (nonzero cycle)
  exact (execValidate_of_accepted idle unchecked).trans (by rw [passes, State.validated])

/-! ### BUILD -/

/-- BUILD accepted is its five operations in order, then the three registers (40 R93). -/
theorem execBuild_of_operations {s s1 s2 s3 s4 s5 : State} (idle : s.st = .idle) (valid : s.cfgValid = true)
    (unbuilt : s.built = false) (zero : execFbZero s = .next s1) (dmac : execFbWrDmac s1 = .next s2)
    (smac : execFbWrSmac s2 = .next s3) (tag : execFbWrTag s3 = .next s4) (etype : execFbWrEtype s4 = .next s5) :
    execBuild s = .next { s5 with seqId := 0#32, frameId := 0#32, built := true } := by
  have accepted : s.acceptsBuild = true := by simp [State.acceptsBuild, idle, valid, unbuilt]
  rw [execBuild, if_pos accepted, zero, andThen_of_next, dmac, andThen_of_next, smac, andThen_of_next, tag,
    andThen_of_next, etype, andThen_of_next]

/-- Settles O13: an accepted BUILD chains the operations it is given. -/
theorem buildIsItsMicroOperations : Obligations.BuildIsItsMicroOperations :=
  fun _ _ _ _ _ _ idle valid unbuilt zero dmac smac tag etype =>
    execBuild_of_operations idle valid unbuilt zero dmac smac tag etype

theorem execFbZero_of_fits {s : State} (fits : liveLen s.cfg ≤ Config.fbCapacity) :
    execFbZero s = .next { s with fb := s.fb.zeroFill (liveLen s.cfg) } := memZero_next.2 ⟨fits, rfl⟩

theorem execFbWrDmac_answer (s : State) :
    execFbWrDmac s = .next { s with fb := s.fb.writeBytes offDmac (netBytes 6 s.cfg.destMac.toNat) } :=
  memWrite_of_le _ s (by decide)

theorem execFbWrSmac_answer (s : State) :
    execFbWrSmac s = .next { s with fb := s.fb.writeBytes offSmac (netBytes 6 s.cfg.srcMac.toNat) } :=
  memWrite_of_le _ s (by decide)

/-- FB_WR_TAG always answers, and then as `execFbWrTag_eq` says. -/
theorem execFbWrTag_answer (s : State) :
    execFbWrTag s = .next { s with fb := if s.cfg.vlanTagged then
      (s.fb.writeBytes offTpid (netBytes 2 s.params.tpid.toNat)).writeBytes offTci (netBytes 2 (tci s.cfg).toNat)
      else s.fb } := by
  obtain ⟨t, answers⟩ := goesOn_execFbWrTag s
  rw [answers, ← execFbWrTag_eq answers]

theorem execFbWrEtype_answer (s : State) :
    execFbWrEtype s = .next { s with fb := s.fb.writeBytes (offEtype s.cfg) (netBytes 2 s.cfg.ethertype.toNat) } :=
  memWrite_of_le _ s (offEtype_bound s.cfg)

/-- BUILD accepted lays out the header's buffer, where the live part fits the buffer. -/
theorem execBuild_of_accepted {s : State} (idle : s.st = .idle) (valid : s.cfgValid = true) (unbuilt : s.built = false)
    (fits : liveLen s.cfg ≤ Config.fbCapacity) :
    execBuild s =
      .next { s with fb := headerBuffer s.params s.cfg s.fb, seqId := 0#32, frameId := 0#32, built := true } :=
  execBuild_of_operations idle valid unbuilt (execFbZero_of_fits fits) (execFbWrDmac_answer _) (execFbWrSmac_answer _)
    (execFbWrTag_answer _) (execFbWrEtype_answer _)

/-- Settles O12: BUILD's buffer is the header and zeroes, which is the frame with both counters 0, and the header ends
within the live part. -/
theorem buildMakesTheFrame : Obligations.BuildMakesTheFrame := by
  intro s idle valid unbuilt checked
  obtain ⟨long, fits⟩ := liveLen_bounds checked
  have header := headerLen_cases s.cfg
  refine ⟨_, execBuild_of_accepted idle valid unbuilt fits, rfl, fun a live => ?_, fun a beyond => ?_⟩
  · rw [headerBuffer_read, frameImage_zero_getElem? checked, if_pos live, if_pos live]
  · rw [headerBuffer_read, if_neg (by omega), if_neg (by omega)]

/-! ### RUN -/

/-- Settles O14: RUN's acceptance condition is met. -/
theorem runEntersArming : Obligations.RunEntersArming := by
  intro s idle valid isBuilt
  have accepted : s.acceptsRun = true := by simp [State.acceptsRun, idle, valid, isBuilt]
  exact if_pos accepted

end Sys2Proof.Machine
end

section
/-!
The `CFG_*` registers (10 R38 to R44): where they stand in the address map, what a write does to each field of the
configuration, and what each register then reads.
-/
namespace Sys2Proof.Machine

/-! ### The registers by their place in the map -/

/-- The registers of the map below the window are those listed, at their place (10 R33). -/
theorem regOf_eq_iff {i : Nat} {r : Reg} (listed : lowRegs[i]? = some r) (a : BitVec 12) :
    regOf a = r ↔ a.toNat / 4 = i := by
  have distinct : lowRegs.Nodup := by decide
  obtain ⟨inside, -⟩ := List.getElem?_eq_some_iff.1 listed
  cases found : lowRegs[a.toNat / 4]? with
  | some r' =>
    obtain ⟨inside', -⟩ := List.getElem?_eq_some_iff.1 found
    have is : regOf a = r' := by simp only [regOf, found]
    rw [is, ← Option.some_inj, ← found, ← listed]
    exact List.getElem?_inj inside' distinct
  | none =>
    have beyond := List.getElem?_eq_none_iff.1 found
    have notListed : regOf a ∉ lowRegs := by
      simp only [regOf, found]
      split <;> simp [lowRegs]
    exact iff_of_false (fun is => notListed (is ▸ List.mem_of_getElem? listed)) (by omega)

/-- Word 0 of the map is `CMD`. -/
theorem regOf_eq_cmd_iff (a : BitVec 12) : regOf a = .cmd ↔ a.toNat < 4 := by
  rw [regOf_eq_iff (i := 0) rfl, Nat.div_eq_zero_iff_lt (by decide)]

/-- The `CFG_*` registers in the order of their addresses, 0x010 to 0x03C (10 R33). -/
def cfgRegs : List Reg := (lowRegs.drop 4).take 12

/-- At the addresses 0x010 to 0x03F stand the `CFG_*` registers in order. -/
theorem regOf_eq_cfg_iff {i : Nat} {r : Reg} (listed : cfgRegs[i]? = some r) (a : BitVec 12) :
    regOf a = r ↔ a.toNat / 4 = 4 + i := by
  obtain ⟨inside, -⟩ := List.getElem?_eq_some_iff.1 listed
  refine regOf_eq_iff ?_ a
  rwa [← List.getElem?_drop, ← List.getElem?_take_of_lt (show i < 12 from inside)]

/-- The addresses 0x010 to 0x03F are those of the `CFG_*` registers, each at its word. -/
theorem cfgRegs_getElem? {a : BitVec 12} (first : 0x010 ≤ a.toNat) (last : a.toNat ≤ 0x03F) :
    cfgRegs[a.toNat / 4 - 4]? = some (regOf a) := by
  have listed : cfgRegs[a.toNat / 4 - 4]? = some _ :=
    List.getElem?_eq_getElem (show a.toNat / 4 - 4 < 12 by omega)
  rw [listed, (regOf_eq_cfg_iff listed a).2 (by omega)]

theorem regOf_mem_cfgRegs_iff (a : BitVec 12) : regOf a ∈ cfgRegs ↔ 0x010 ≤ a.toNat ∧ a.toNat ≤ 0x03F := by
  refine ⟨fun isCfg => ?_, fun ⟨first, last⟩ => List.mem_of_getElem? (cfgRegs_getElem? first last)⟩
  obtain ⟨i, listed⟩ := List.getElem?_of_mem isCfg
  obtain ⟨inside, -⟩ := List.getElem?_eq_some_iff.1 listed
  have place := (regOf_eq_cfg_iff listed a).1 rfl
  have : i < 12 := inside
  omega

/-! ### Writing a `CFG_*` register -/

/-! ### What a write does to the fields of the configuration -/

theorem writeCfg_ethertype (c : Cfg) (r : Reg) (w : Word) :
    (writeCfg c r w).ethertype = if r = .cfgEtype then w.extractLsb' 0 16 else c.ethertype := by
  cases r <;> rfl

theorem writeCfg_vlanId (c : Cfg) (r : Reg) (w : Word) :
    (writeCfg c r w).vlanId = if r = .cfgVlan then w.extractLsb' 0 16 else c.vlanId := by
  cases r <;> rfl

theorem writeCfg_vlanPcp (c : Cfg) (r : Reg) (w : Word) :
    (writeCfg c r w).vlanPcp = if r = .cfgVlan then w.extractLsb' 16 8 else c.vlanPcp := by
  cases r <;> rfl

theorem writeCfg_vlanTagged (c : Cfg) (r : Reg) (w : Word) :
    (writeCfg c r w).vlanTagged = if r = .cfgCtl then w.getLsbD 0 else c.vlanTagged := by
  cases r <;> rfl

theorem writeCfg_nBurstsEn (c : Cfg) (r : Reg) (w : Word) :
    (writeCfg c r w).nBurstsEn = if r = .cfgCtl then w.getLsbD 1 else c.nBurstsEn := by
  cases r <;> rfl

theorem writeCfg_frameSize (c : Cfg) (r : Reg) (w : Word) :
    (writeCfg c r w).frameSize = if r = .cfgFsize then w.extractLsb' 0 16 else c.frameSize := by
  cases r <;> rfl

theorem writeCfg_burstSize (c : Cfg) (r : Reg) (w : Word) :
    (writeCfg c r w).burstSize = if r = .cfgBurst then w else c.burstSize := by
  cases r <;> rfl

theorem writeCfg_nBursts (c : Cfg) (r : Reg) (w : Word) :
    (writeCfg c r w).nBursts = if r = .cfgNbursts then w else c.nBursts := by
  cases r <;> rfl

theorem writeCfg_cycleTimeNs (c : Cfg) (r : Reg) (w : Word) :
    (writeCfg c r w).cycleTimeNs =
      if r = .cfgCycleLo then c.cycleTimeNs.extractLsb' 32 32 ++ w
      else if r = .cfgCycleHi then w ++ c.cycleTimeNs.extractLsb' 0 32 else c.cycleTimeNs := by
  cases r <;> rfl

theorem writeCfg_destMac (c : Cfg) (r : Reg) (w : Word) :
    (writeCfg c r w).destMac =
      if r = .cfgDmacLo then c.destMac.extractLsb' 32 16 ++ w
      else if r = .cfgDmacHi then w.extractLsb' 0 16 ++ c.destMac.extractLsb' 0 32 else c.destMac := by
  cases r <;> rfl

theorem writeCfg_srcMac (c : Cfg) (r : Reg) (w : Word) :
    (writeCfg c r w).srcMac =
      if r = .cfgSmacLo then c.srcMac.extractLsb' 32 16 ++ w
      else if r = .cfgSmacHi then w.extractLsb' 0 16 ++ c.srcMac.extractLsb' 0 32 else c.srcMac := by
  cases r <;> rfl

/-- A register that is no `CFG_*` register takes no write (10 R33). -/
theorem writeCfg_of_not_mem {r : Reg} (c : Cfg) (w : Word) (noCfg : r ∉ cfgRegs) : writeCfg c r w = c := by
  cases r with
  | cmd | status | err | upc | seqId | frameId | dlSecLo | dlSecHi | dlNsec | periodLo | periodHi => rfl
  | fbLen | fbWin | reserved => rfl
  | _ => exact absurd (by decide) noCfg

/-! ### What the registers read after a write -/

/-- The bits of a `CFG_*` register that hold a field; the others are reserved (10 R38 to R44). -/
def cfgMask : Reg → Word
  | .cfgEtype | .cfgFsize | .cfgDmacHi | .cfgSmacHi => 0xFFFF#32
  | .cfgVlan => 0xFFFFFF#32
  | .cfgCtl => 0x3#32
  | _ => 0xFFFFFFFF#32

/-- A mask of the low bits leaves the word whose number is theirs. -/
theorem eq_and_lowMask {x w : Word} (k : Nat) (fits : k ≤ 32) (low : x.toNat = w.toNat % 2 ^ k) :
    x = w &&& BitVec.ofNat 32 (2 ^ k - 1) := by
  have mask : 2 ^ k - 1 < 2 ^ 32 := Nat.sub_one_lt_of_le (by positivity) (Nat.pow_le_pow_right (by decide) fits)
  apply BitVec.eq_of_toNat_eq
  rw [low, BitVec.toNat_and, BitVec.toNat_ofNat, Nat.mod_eq_of_lt mask, Nat.and_two_pow_sub_one_eq_mod]

theorem wholeWord_eq_and (w : Word) : w = w &&& 0xFFFFFFFF#32 :=
  eq_and_lowMask 32 (by decide) (Nat.mod_eq_of_lt w.isLt).symm

theorem lowHalf_eq_and (w : Word) : (w.extractLsb' 0 16).setWidth 32 = w &&& 0xFFFF#32 :=
  eq_and_lowMask 16 (by decide) (by rw [toNat_widened _ (by decide), BitVec.extractLsb'_toNat, Nat.shiftRight_zero])

/-- `CFG_VLAN` reads back the low 24 bits (10 R39). -/
theorem vlanWord_writeCfg (c : Cfg) (w : Word) :
    0#8 ++ (writeCfg c .cfgVlan w).vlanPcp ++ (writeCfg c .cfgVlan w).vlanId = w &&& 0xFFFFFF#32 := by
  refine eq_and_lowMask 24 (by decide) ((toNat_vlanWord _).trans ?_)
  simp only [writeCfg, BitVec.extractLsb'_toNat, Nat.shiftRight_eq_div_pow]
  omega

/-- `CFG_CTL` reads back the low two bits (10 R40). -/
theorem ctlWord_writeCfg (c : Cfg) (w : Word) :
    0#30 ++ BitVec.ofBool (writeCfg c .cfgCtl w).nBurstsEn ++ BitVec.ofBool (writeCfg c .cfgCtl w).vlanTagged =
      w &&& 0x3#32 := by
  refine eq_and_lowMask 2 (by decide) ((toNat_ctlWord _).trans ?_)
  simp only [writeCfg, BitVec.getLsbD, Nat.toNat_testBit]
  omega

/-- A written `CFG_*` register reads back the word less its reserved bits (10 R38 to R44). -/
theorem readReg_writeCfg_self {s t : State} {r : Reg} {w : Word} (written : t.cfg = writeCfg s.cfg r w)
    (isCfg : r ∈ cfgRegs) : readReg t r = some (w &&& cfgMask r) := by
  cases r with
  | cfgEtype | cfgFsize =>
    simp only [readReg, written, writeCfg]
    exact congrArg some (lowHalf_eq_and w)
  | cfgVlan =>
    rw [readReg, written]
    exact congrArg some (vlanWord_writeCfg s.cfg w)
  | cfgCtl =>
    rw [readReg, written]
    exact congrArg some (ctlWord_writeCfg s.cfg w)
  | cfgBurst | cfgNbursts =>
    simp only [readReg, written, writeCfg]
    exact congrArg some (wholeWord_eq_and w)
  | cfgCycleLo | cfgDmacLo | cfgSmacLo =>
    simp only [readReg, written, writeCfg, BitVec.extractLsb'_append_eq_right]
    exact congrArg some (wholeWord_eq_and w)
  | cfgCycleHi =>
    simp only [readReg, written, writeCfg, BitVec.extractLsb'_append_eq_left]
    exact congrArg some (wholeWord_eq_and w)
  | cfgDmacHi | cfgSmacHi =>
    simp only [readReg, written, writeCfg, BitVec.extractLsb'_append_eq_left]
    exact congrArg some (lowHalf_eq_and w)
  | _ => exact absurd isCfg (by simp [cfgRegs, lowRegs])

/-- The other `CFG_*` registers read as before: a field that stands in two registers keeps its other part. -/
theorem readReg_writeCfg_other {s t : State} {r r' : Reg} {w : Word} (written : t.cfg = writeCfg s.cfg r w)
    (isCfg : r' ∈ cfgRegs) (other : r ≠ r') : readReg t r' = readReg s r' := by
  cases r' with
  | cfgEtype => simp only [readReg, written, writeCfg_ethertype, if_neg other]
  | cfgVlan => simp only [readReg, written, writeCfg_vlanPcp, writeCfg_vlanId, if_neg other]
  | cfgCtl => simp only [readReg, written, writeCfg_nBurstsEn, writeCfg_vlanTagged, if_neg other]
  | cfgFsize => simp only [readReg, written, writeCfg_frameSize, if_neg other]
  | cfgBurst => simp only [readReg, written, writeCfg_burstSize, if_neg other]
  | cfgNbursts => simp only [readReg, written, writeCfg_nBursts, if_neg other]
  | cfgCycleLo | cfgCycleHi =>
    simp only [readReg, written, writeCfg_cycleTimeNs, if_neg other]
    split <;> simp only [BitVec.extractLsb'_append_eq_right, BitVec.extractLsb'_append_eq_left]
  | cfgDmacLo | cfgDmacHi =>
    simp only [readReg, written, writeCfg_destMac, if_neg other]
    split <;> simp only [BitVec.extractLsb'_append_eq_right, BitVec.extractLsb'_append_eq_left]
  | cfgSmacLo | cfgSmacHi =>
    simp only [readReg, written, writeCfg_srcMac, if_neg other]
    split <;> simp only [BitVec.extractLsb'_append_eq_right, BitVec.extractLsb'_append_eq_left]
  | _ => exact absurd isCfg (by simp [cfgRegs, lowRegs])

end Sys2Proof.Machine
end

section
/-!
The host's accesses as steps (40 R95, R96): a write to `CMD` runs a command or is rejected (O7), a write elsewhere
reaches the open configuration alone (O37), and a read writes nothing (O42).
-/
namespace Sys2Proof.Machine

/-! ### Writes -/

/-- A host write outside `CMD` is a register write, which is a next state (40 R95). -/
theorem hostWrite_of_ne_cmd {a : BitVec 12} (w : Word) (s : State) (noCmd : regOf a ≠ .cmd) :
    hostWrite a w s = .next (writeReg s (regOf a) w) := by
  unfold hostWrite
  split
  · exact absurd ‹_› noCmd
  · rfl

/-- A register write reaches the configuration alone (40 R95). -/
theorem writeReg_frame (s : State) (r : Reg) (w : Word) :
    writeReg s r w = { s with cfg := (writeReg s r w).cfg } := by
  unfold writeReg
  split <;> rfl

/-- Unlocked, a register write is a write to the configuration (10 R25). -/
theorem writeReg_cfg_of_open {s : State} (r : Reg) (w : Word) (idle : s.st = .idle) (unchecked : s.cfgValid = false) :
    (writeReg s r w).cfg = writeCfg s.cfg r w := by
  have isOpen : s.unlocked = true := by simp [State.unlocked, idle, unchecked]
  rw [writeReg, if_pos isOpen]

/-- Locked, or to a register that is no `CFG_*` register, a register write leaves the configuration as it is. -/
theorem writeReg_cfg_of_closed {s : State} {r : Reg} (w : Word)
    (closed : ¬(s.st = .idle ∧ s.cfgValid = false ∧ r ∈ cfgRegs)) : (writeReg s r w).cfg = s.cfg := by
  unfold writeReg
  split
  · have isOpen : s.unlocked = true := ‹_›
    simp only [State.unlocked, Bool.and_eq_true, decide_eq_true_eq, Bool.not_eq_true'] at isOpen
    obtain ⟨idle, unchecked⟩ := isOpen
    exact writeCfg_of_not_mem s.cfg w fun isCfg => closed ⟨idle, unchecked, isCfg⟩
  · rfl

/-- Settles O7: the address is `CMD`'s, and a word that encodes no command is rejected. -/
theorem stepRunsTheHostCommand : Obligations.StepRunsTheHostCommand := by
  intro s a w rest slot listed isCmd
  rw [step_of_listed slot listed, perform, hostWrite, (regOf_eq_cmd_iff a).2 isCmd]
  refine ⟨fun i decodes => ?_, fun e fails => ?_⟩
  · simp only [writeCommand, decodes]
  · simp only [writeCommand, fails, reject]

/-- Settles O37: the step is a register write. Open, the address is a `CFG_*` register's, which takes the word while the
others keep theirs; closed, the configuration is locked or the register is none of them. -/
theorem hostWriteReachesOnlyOpenConfig : Obligations.HostWriteReachesOnlyOpenConfig := by
  intro s a w rest slot listed noCmd
  have notCmd : regOf a ≠ .cmd := mt (regOf_eq_cmd_iff a).1 (by omega)
  refine ⟨_, (step_of_listed slot listed).trans (hostWrite_of_ne_cmd w _ notCmd), writeReg_frame .., fun closed => ?_,
    fun idle unchecked first last => ?_⟩
  · rw [← regOf_mem_cfgRegs_iff] at closed
    exact writeReg_cfg_of_closed w closed
  · have written := writeReg_cfg_of_open (s := { s with agenda := rest, out := Ports.quiet }) (regOf a) w idle unchecked
    refine ⟨fun mask isMask => ?_, fun c first' last' otherWord => ?_⟩
    · have masks : (cfgRegs.map cfgMask)[a.toNat / 4 - 4]? = some mask := isMask
      rw [List.getElem?_map, cfgRegs_getElem? first last, Option.map_some, Option.some_inj] at masks
      rw [← masks]
      exact readReg_writeCfg_self written ((regOf_mem_cfgRegs_iff a).2 ⟨first, last⟩)
    · have other : regOf a ≠ regOf c := fun same => by
        have place := (regOf_eq_cfg_iff (cfgRegs_getElem? first' last') a).1 same
        omega
      exact readReg_writeCfg_other written ((regOf_mem_cfgRegs_iff c).2 ⟨first', last'⟩) other

/-! ### Reads -/

/-- The registers show neither the agenda nor the ports. -/
theorem hostReadWord_of_environment (s : State) (a : BitVec 12) (agenda : List Move) (out : Ports) :
    hostReadWord { s with agenda := agenda, out := out } a = hostReadWord s a := rfl

/-- Settles O42: the word read is that of the state before the move. -/
theorem hostReadChangesNothing : Obligations.HostReadChangesNothing := by
  intro s a w rest slot listed reads
  rw [step_of_listed slot listed, perform, hostRead, hostReadWord_of_environment, reads]

end Sys2Proof.Machine
end

section
/-!
The frame builder's operations on their own (41 R97 to R101): FB_ZERO clears the live part (O16), and each writer of a
field places the slices of its register in network byte order (O17 to O19).
-/
namespace Sys2Proof.Machine

open Sys2Proof.Safety

/-! ### The bytes of a field -/

/-- Byte `i` of a number of `n` bytes is the slice of eight bits that stands `i` places below the highest (20 R57). -/
theorem netBytes_getElem?_slice {w : Nat} (x : BitVec w) {n i : Nat} (h : i < n) :
    (netBytes n x.toNat)[i]? = some (x.extractLsb' (8 * (n - 1 - i)) 8) := by
  rw [netBytes_getElem? n x.toNat i h, BitVec.extractLsb', Nat.shiftRight_eq_div_pow, Nat.pow_mul]

/-- A register written as `n` bytes is read byte by byte as its slices (20 R57). -/
theorem read_memWritten_slice {w : Nat} (m : Memory) (a : Nat) (x : BitVec w) {n i : Nat} (h : i < n) :
    (m.writeBytes a (netBytes n x.toNat)).read (a + i) = some (x.extractLsb' (8 * (n - 1 - i)) 8) := by
  rw [read_memWritten_field m a n x.toNat h, netBytes_getElem?_slice x h]

/-- A field of two bytes holds the upper byte at its offset and the lower one behind it (20 R55). -/
theorem read_memWritten_halves (m : Memory) (a : Nat) (x : BitVec 16) :
    (m.writeBytes a (netBytes 2 x.toNat)).read a = some (x.extractLsb' 8 8) ∧
      (m.writeBytes a (netBytes 2 x.toNat)).read (a + 1) = some (x.extractLsb' 0 8) :=
  ⟨read_memWritten_slice m a x (i := 0) (by decide), read_memWritten_slice m a x (i := 1) (by decide)⟩

/-- An address written as a field of six bytes is read as its bytes (30 R86). -/
theorem read_memWritten_mac (m : Memory) (a : Nat) (mac : BitVec 48) {i : Nat} (h : i < 6) :
    (m.writeBytes a (netBytes 6 mac.toNat)).read (a + i) = some (macByte mac i) := by
  rw [read_memWritten_slice m a mac h, macByte, show 8 * (6 - 1 - i) = 40 - 8 * i by omega]

/-! ### Clearing -/

/-- Settles O16: the filled buffer reads 0 below `L`, and from there on as before. -/
theorem fbZeroClearsTheLivePart : Obligations.FbZeroClearsTheLivePart := by
  intro s fits
  refine ⟨_, execFbZero_of_fits fits, rfl, fun a live => ?_, fun a beyond => ?_⟩
  · rw [Memory.read_zeroFill, if_pos live]
  · rw [Memory.read_zeroFill, if_neg (Nat.not_lt.2 beyond)]

/-! ### The addresses -/

/-- Settles O17: each writer is a field of six bytes, at 0 and at 6. -/
theorem addressWritersPlaceTheMacs : Obligations.AddressWritersPlaceTheMacs := by
  refine ⟨fun s => ⟨_, execFbWrDmac_answer s, rfl, fun i inside => ?_, fun a outside => ?_⟩,
    fun s => ⟨_, execFbWrSmac_answer s, rfl, fun i inside => ?_, fun a outside => ?_⟩⟩
  · rw [← read_memWritten_mac s.fb offDmac s.cfg.destMac inside, offDmac, Nat.zero_add]
  · exact read_memWritten_outside s.fb offDmac 6 _ (.inr outside)
  · exact read_memWritten_mac s.fb offSmac s.cfg.srcMac inside
  · exact read_memWritten_outside s.fb offSmac 6 _ outside

/-! ### The tag -/

/-- The tag control information as a number: the priority's three bits, a zero bit, the identifier's twelve (30 R74). -/
theorem toNat_tci (c : Cfg) : (tci c).toNat = c.vlanPcp.toNat % 8 * 8192 + c.vlanId.toNat % 4096 := by
  refine (toNat_append_eq_add (c.vlanPcp.extractLsb' 0 3 ++ 0#1) (c.vlanId.extractLsb' 0 12)).trans ?_
  simp only [toNat_append_eq_add, BitVec.extractLsb'_toNat, BitVec.toNat_ofNat, Nat.shiftRight_zero]
  omega

/-- Settles O18: the tag is two fields of two bytes, the second of which leaves the first as it is; `v` is the tag
control information. -/
theorem tagWriterPacksTheTag : Obligations.TagWriterPacksTheTag := by
  intro s
  have answer := execFbWrTag_answer s
  refine ⟨fun tagged => ?_, fun untagged => ?_⟩
  · rw [if_pos tagged] at answer
    obtain ⟨tpidHigh, tpidLow⟩ := read_memWritten_halves s.fb offTpid s.params.tpid
    have tciField (m : Memory) := read_memWritten_halves m offTci (tci s.cfg)
    have keeps {m : Memory} {a : Nat} (outside : a < 14 ∨ 16 ≤ a) :=
      read_memWritten_outside m offTci 2 (tci s.cfg).toNat outside
    refine ⟨_, tci s.cfg, answer, rfl, toNat_tci s.cfg, (keeps (by decide)).trans tpidHigh,
      (keeps (by decide)).trans tpidLow, (tciField _).1, (tciField _).2, fun a outside => ?_⟩
    have outsideTpid : a < offTpid ∨ offTpid + 2 ≤ a := by simp only [offTpid]; omega
    exact (keeps (by omega)).trans (read_memWritten_outside s.fb offTpid 2 _ outsideTpid)
  · rw [if_neg (by simp [untagged])] at answer
    exact answer

/-! ### The EtherType -/

/-- FB_WR_ETYPE writes its field of two bytes and nothing else (41 R101). -/
theorem execFbWrEtype_places (s : State) :
    ∃ t, execFbWrEtype s = .next t ∧ t = { s with fb := t.fb } ∧
      t.fb.read (offEtype s.cfg) = some (s.cfg.ethertype.extractLsb' 8 8) ∧
      t.fb.read (offEtype s.cfg + 1) = some (s.cfg.ethertype.extractLsb' 0 8) ∧
      ∀ a, a < offEtype s.cfg ∨ offEtype s.cfg + 2 ≤ a → t.fb.read a = s.fb.read a := by
  obtain ⟨high, low⟩ := read_memWritten_halves s.fb (offEtype s.cfg) s.cfg.ethertype
  exact ⟨_, execFbWrEtype_answer s, rfl, high, low, fun _ outside =>
    read_memWritten_outside s.fb (offEtype s.cfg) 2 _ outside⟩

/-- Settles O19: the field stands at 16 behind a tag and at 12 without one. -/
theorem ethertypeWriterFollowsTheTag : Obligations.EthertypeWriterFollowsTheTag := by
  intro s
  have places := execFbWrEtype_places s
  cases tag : s.cfg.vlanTagged with
  | false =>
    rw [offEtype_of_untagged tag] at places
    exact places
  | true =>
    rw [offEtype_of_tagged tag] at places
    exact places

end Sys2Proof.Machine
end

section
/-!
The cycle scheduler's operations (42 R104 to R108): ARM's first deadline on the natural numbers, and what ARM, WAIT and
ADVANCE answer by their one condition each. From them O22 to O26.
-/
namespace Sys2Proof.Machine

theorem fitsTimestamp_eq_false_iff (n : Nat) : fitsTimestamp n = false ↔ 2 ^ 64 ≤ n / 1000000000 := by
  rw [← Bool.not_eq_true, fitsTimestamp_iff, Nat.not_lt]

/-! ### ARM -/

/-- For a period of at least 1 the ordinal is the quotient (42 R104). -/
theorem firstDeadline_of_pos (n : Nat) {p : Nat} (positive : 1 ≤ p) : firstDeadline n p = (n / p + 2) * p := by
  rw [firstDeadline, ordinal, if_neg (Nat.one_le_iff_ne_zero.1 positive), Config.armSkip]

/-- The first deadline is the end of the next period: more than one period ahead and at most two (42 R105). -/
theorem firstDeadline_bounds (n : Nat) {p : Nat} (positive : 1 ≤ p) :
    n + p < firstDeadline n p ∧ firstDeadline n p ≤ n + 2 * p := by
  have begun : p * (n / p) ≤ n := Nat.mul_div_le n p
  have notOver : n < p * (n / p) + p := Nat.lt_mul_div_succ n positive
  have ahead : firstDeadline n p = p * (n / p) + 2 * p := by
    rw [firstDeadline_of_pos n positive, Nat.add_mul, Nat.mul_comm]
  omega

theorem execArm_of_fits {s : State} (fits : fitsTimestamp (firstDeadline (ns s.now) s.cfg.cycleTimeNs.toNat) = true) :
    execArm s = .next { s with
      periodNs := s.cfg.cycleTimeNs
      nextDeadline := ts (firstDeadline (ns s.now) s.cfg.cycleTimeNs.toNat)
      upc := 1#5
      st := .arming } := if_pos fits

theorem execArm_of_overflow {s : State}
    (overflows : fitsTimestamp (firstDeadline (ns s.now) s.cfg.cycleTimeNs.toNat) = false) :
    execArm s = .next { s with errCode := 0x20#8, st := .error } := if_neg (by simp [overflows])

/-- Settles O22: the deadline of the rule is the model's, and whether its seconds fit decides the answer. -/
theorem armSetsTheFirstDeadline : Obligations.ArmSetsTheFirstDeadline := by
  intro s d positive isDeadline
  obtain rfl : firstDeadline (ns s.now) s.cfg.cycleTimeNs.toNat = d :=
    (firstDeadline_of_pos _ positive).trans isDeadline.symm
  exact ⟨fun fits => execArm_of_fits ((fitsTimestamp_iff _).2 fits),
    fun overflows => execArm_of_overflow ((fitsTimestamp_eq_false_iff _).2 overflows)⟩

/-- Settles O23: ARM outside ERROR has set a deadline that fits, so it is the first deadline as a number. -/
theorem firstDeadlineBounds : Obligations.FirstDeadlineBounds := by
  intro s t positive he noError
  rcases execArm_next he with ⟨fits, rfl⟩ | ⟨-, rfl⟩
  · obtain ⟨above, below⟩ := firstDeadline_bounds (ns s.now) positive
    simp only [ns_ts fits]
    exact ⟨above, below, dvd_firstDeadline _ _⟩
  · exact absurd rfl noError

/-! ### WAIT -/

theorem State.waitEnabled_iff (s : State) :
    s.waitEnabled = true ↔ ns s.nextDeadline ≤ ns s.now ∨ s.params.spuriousWake = true := by
  rw [State.waitEnabled, Bool.or_eq_true, decide_eq_true_iff]

/-- Moving `upc` within the places of one state leaves the state as it is (44 R124). -/
theorem State.setUpc_of_stOf {s : State} {u : BitVec 5} (same : stOf u = some s.st) :
    s.setUpc u = { s with upc := u } := by
  rw [State.setUpc, same, Option.getD_some]

/-- Settles O24: both places lead to another one of the same state, so going on writes `upc` alone. -/
theorem waitHoldsUntilTheDeadline : Obligations.WaitHoldsUntilTheDeadline := by
  intro s place
  have sameState : stOf (s.upc + 1#5) = some s.st := by
    rcases place with ⟨upc, st⟩ | ⟨upc, st⟩ <;> rw [upc, st] <;> rfl
  refine ⟨fun goesOn => ?_, fun early noWake => ?_⟩
  · rw [← State.setUpc_of_stOf sameState]
    exact if_pos (s.waitEnabled_iff.2 goesOn)
  · exact if_neg fun enabled => (s.waitEnabled_iff.1 enabled).elim early.not_ge (by simp [noWake])

/-! ### ADVANCE -/

theorem execAdvance_of_fits {s : State} (fits : fitsTimestamp (ns s.nextDeadline + s.periodNs.toNat) = true) :
    execAdvance s = .next { s with
      nextDeadline := ts (ns s.nextDeadline + s.periodNs.toNat)
      upc := 3#5
      st := .burstSending } := if_pos fits

theorem execAdvance_of_overflow {s : State} (overflows : fitsTimestamp (ns s.nextDeadline + s.periodNs.toNat) = false) :
    execAdvance s = .next { s with errCode := 0x21#8, st := .error } := if_neg (by simp [overflows])

/-- Settles O25: whether the seconds of the sum fit decides the answer. -/
theorem advanceAddsOnePeriod : Obligations.AdvanceAddsOnePeriod := by
  rintro s _ rfl
  exact ⟨fun fits => execAdvance_of_fits ((fitsTimestamp_iff _).2 fits),
    fun overflows => execAdvance_of_overflow ((fitsTimestamp_eq_false_iff _).2 overflows)⟩

/-- Settles O26: ADVANCE outside ERROR has set a sum that fits, which reads back as the number it is. -/
theorem advanceNeverDrifts : Obligations.AdvanceNeverDrifts := by
  intro s t he noError
  rcases execAdvance_next he with ⟨fits, rfl⟩ | ⟨-, rfl⟩
  · exact ⟨ns_ts fits, normalised_ts _⟩
  · exact absurd rfl noError

end Sys2Proof.Machine
end

section
/-!
The clock against the deadline (42 R111): WAIT lets the sequencer on to ADVANCE only once the deadline has come, ADVANCE
moves it one period ahead, and until the next WAIT nothing but the clock moves. From it O59 and O53.
-/
namespace Sys2Proof.Machine

open Sys2Proof.Safety

/-! ### What keeps the timing -/

/-- All that the timing speaks of, but for the clock, as it was. -/
structure TimingUnchanged (s t : State) : Prop where
  microSlot : t.microSlot = s.microSlot
  params : t.params = s.params
  st : t.st = s.st
  upc : t.upc = s.upc
  nextDeadline : t.nextDeadline = s.nextDeadline
  periodNs : t.periodNs = s.periodNs

/-- A deadline that has come stays so while the clock goes on. -/
theorem timingInv_of_unchanged {s t : State} (hs : TimingInv s) (same : TimingUnchanged s t)
    (clock : ns s.now ≤ ns t.now) : TimingInv t where
  slotEmpty := same.microSlot.trans hs.slotEmpty
  noEarlyWake := by rw [same.params]; exact hs.noEarlyWake
  runsInRom := by rw [same.st, same.upc]; exact hs.runsInRom
  afterWait runs place := by
    rw [same.st] at runs
    rw [same.upc] at place
    rw [same.nextDeadline]
    exact (hs.afterWait runs place).trans clock
  inBurst burst := by
    rw [same.st] at burst
    rw [same.nextDeadline, same.periodNs]
    exact (hs.inBurst burst).trans (Nat.add_le_add_right clock _)

/-- Of a sequencer at rest the timing asks nothing. -/
theorem timingInv_of_rest {t : State} (slot : t.microSlot = none) (noEarlyWake : t.params.spuriousWake = false)
    (rests : stRuns t.st = false) : TimingInv t where
  slotEmpty := slot
  noEarlyWake := noEarlyWake
  runsInRom runs := by simp [rests] at runs
  afterWait runs := by simp [rests] at runs
  inBurst burst := by simp [burst, stRuns] at rests

theorem CommandEffect.timingInv {s t : State} (effect : CommandEffect s t) (hs : TimingInv s) : TimingInv t := by
  have keeps {t : State} (same : TimingUnchanged s t) (now : t.now = s.now) : TimingInv t :=
    timingInv_of_unchanged hs same (now ▸ Nat.le_refl _)
  cases effect with
  | nothing => exact hs
  | rejected | validated | built => exact keeps ⟨rfl, rfl, rfl, rfl, rfl, rfl⟩ rfl
  | failed => exact timingInv_of_rest hs.slotEmpty hs.noEarlyWake rfl
  | started => exact ⟨hs.slotEmpty, hs.noEarlyWake, fun _ => rfl, fun _ afterWait => absurd afterWait (by simp), nofun⟩

/-! ### The sequencer's operations -/

/-- From ADVANCE to TCHK or HALT the sequencer stands in BURST_SENDING (44 R123, R124). -/
theorem stOf_place_inBurst {p : SeqIncPhase} {u : BitVec 5} {i : Instr} (place : (u, i) ∈ romPlaces p)
    (notArm : i ≠ .arm) (notWait : i ≠ .wait) (notAdvance : i ≠ .advance) : stOf u = some .burstSending := by
  have all : ∀ x ∈ romPlaces p, x.2 ≠ .arm → x.2 ≠ .wait → x.2 ≠ .advance → stOf x.1 = some .burstSending := by
    cases p <;> decide
  exact all _ place notArm notWait notAdvance

/-- Where the operations of a burst lead while it lasts (43 R114 to R117; 44 R125, R126). -/
def burstPlaces (p : SeqIncPhase) : List (BitVec 5) :=
  [fincNext p, sendNext p, bloopAgain p, bloopDone p, frstNext p, sincNext p]

theorem stOf_burstPlaces {p : SeqIncPhase} {u : BitVec 5} (mem : u ∈ burstPlaces p) :
    stOf u = some .burstSending ∧ ¬(u = 2#5 ∨ u = 10#5) := by
  have all : ∀ x ∈ burstPlaces p, stOf x = some .burstSending ∧ ¬(x = 2#5 ∨ x = 10#5) := by cases p <;> decide
  exact all _ mem

/-- Where an operation of a burst leaves the sequencer: at a place of its state, or at rest, and never where a WAIT
leads; the clock is as it was. -/
structure GoesOnFromBurst (s t : State) : Prop where
  now : t.now = s.now
  inRom : stRuns t.st = true → stOf t.upc = some t.st
  notAfterWait : ¬(t.upc = 2#5 ∨ t.upc = 10#5)

theorem exec_inBurst {i : Instr} {s t : State} (sequencer : i.issuer = .sequencer) (notArm : i ≠ .arm)
    (notWait : i ≠ .wait) (notAdvance : i ≠ .advance) (he : exec i s = .next t) : GoesOnFromBurst s t := by
  have within {t : State} (now : t.now = s.now) (st : t.st = .burstSending)
      (mem : t.upc ∈ burstPlaces s.params.seqIncPhase) : GoesOnFromBurst s t :=
    ⟨now, fun _ => st ▸ (stOf_burstPlaces mem).1, (stOf_burstPlaces mem).2⟩
  cases i with
  | arm => exact absurd rfl notArm
  | wait => exact absurd rfl notWait
  | advance => exact absurd rfl notAdvance
  | finc => cases execFinc_next he; exact within rfl rfl (by simp [burstPlaces])
  | frst => cases execFrst_next he; exact within rfl rfl (by simp [burstPlaces])
  | sinc => cases execSinc_next he; exact within rfl rfl (by simp [burstPlaces])
  | send => obtain ⟨_, -, rfl⟩ := execSend_next he; exact within rfl rfl (by simp [burstPlaces])
  | bloop => rcases execBloop_next he with ⟨-, rfl⟩ | ⟨-, rfl⟩ <;> exact within rfl rfl (by simp [burstPlaces])
  | tchk => rcases execTchk_next he with ⟨-, rfl⟩ | ⟨-, rfl⟩ <;> exact ⟨rfl, fun _ => rfl, by simp⟩
  | halt => cases execHalt_next he; exact ⟨rfl, nofun, by simp⟩
  | _ => cases sequencer

/-- At a place of a burst the deadline already set is at most one period ahead (42 R111). -/
theorem deadline_le_at_burst {s : State} {i : Instr} (hs : TimingInv s) (runs : stRuns s.st = true)
    (place : (s.upc, i) ∈ romPlaces s.params.seqIncPhase) (notArm : i ≠ .arm) (notWait : i ≠ .wait)
    (notAdvance : i ≠ .advance) : ns s.nextDeadline ≤ ns s.now + s.periodNs.toNat := by
  have inBurst := stOf_place_inBurst place notArm notWait notAdvance
  exact hs.inBurst (Option.some.inj ((hs.runsInRom runs).symm.trans inBurst))

/-- An operation of a burst changes neither the deadline nor the period, and leads to no place after a WAIT. -/
theorem timingInv_inBurst {s t : State} {i : Instr} (hs : TimingInv s) (runs : stRuns s.st = true)
    (place : (s.upc, i) ∈ romPlaces s.params.seqIncPhase) (notArm : i ≠ .arm) (notWait : i ≠ .wait)
    (notAdvance : i ≠ .advance) (he : exec i s = .next t) : TimingInv t := by
  have sequencer := issuer_of_place place
  have frame := exec_sequencer sequencer he
  have owners := exec_writtenByOwners sequencer he
  have goesOn := exec_inBurst sequencer notArm notWait notAdvance he
  exact {
    slotEmpty := frame.microSlot.trans hs.slotEmpty
    noEarlyWake := by rw [frame.params]; exact hs.noEarlyWake
    runsInRom := goesOn.inRom
    afterWait := fun _ afterWait => absurd afterWait goesOn.notAfterWait
    inBurst := fun _ => by
      rw [owners.nextDeadline notArm notAdvance, owners.periodNs notArm, goesOn.now]
      exact deadline_le_at_burst hs runs place notArm notWait notAdvance }

/-- WAIT goes on only when the deadline has come, there being no early wake (42 R106, R107). -/
theorem timingInv_wait {s t : State} (hs : TimingInv s) (place : s.upc = 1#5 ∨ s.upc = 9#5)
    (he : exec .wait s = .next t) : TimingInv t := by
  rcases execWait_next he with ⟨enabled, rfl⟩ | ⟨-, rfl⟩
  · have come : ns s.nextDeadline ≤ ns s.now := (s.waitEnabled_iff.1 enabled).resolve_right (by simp [hs.noEarlyWake])
    exact {
      slotEmpty := hs.slotEmpty
      noEarlyWake := hs.noEarlyWake
      runsInRom := fun _ => stOf_afterWait place
      afterWait := fun _ _ => come
      inBurst := fun _ => come.trans (Nat.le_add_right _ _) }
  · exact hs

/-- ADVANCE finds a deadline that has come and sets the one a period after it (42 R108, R111). -/
theorem timingInv_advance {s t : State} (hs : TimingInv s) (come : ns s.nextDeadline ≤ ns s.now)
    (he : exec .advance s = .next t) : TimingInv t := by
  rcases execAdvance_next he with ⟨fits, rfl⟩ | ⟨-, rfl⟩
  · exact {
      slotEmpty := hs.slotEmpty
      noEarlyWake := hs.noEarlyWake
      runsInRom := fun _ => rfl
      afterWait := fun _ afterWait => absurd afterWait (by simp)
      inBurst := fun _ => by simpa only [ns_ts fits] using Nat.add_le_add_right come _ }
  · exact timingInv_of_rest hs.slotEmpty hs.noEarlyWake rfl

/-- ARM leads to WAIT, before any burst. -/
theorem timingInv_arm {s t : State} (hs : TimingInv s) (he : exec .arm s = .next t) : TimingInv t := by
  rcases execArm_next he with ⟨-, rfl⟩ | ⟨-, rfl⟩
  · exact ⟨hs.slotEmpty, hs.noEarlyWake, fun _ => rfl, fun _ afterWait => absurd afterWait (by simp), nofun⟩
  · exact timingInv_of_rest hs.slotEmpty hs.noEarlyWake rfl

theorem timingInv_micro {s t : State} {i : Instr} (hs : TimingInv s) (runs : stRuns s.st = true)
    (place : (s.upc, i) ∈ romPlaces s.params.seqIncPhase) (he : exec i s = .next t) : TimingInv t := by
  cases i with
  | arm => exact timingInv_arm hs he
  | wait => exact timingInv_wait hs (place_wait place) he
  | advance => exact timingInv_advance hs (hs.afterWait runs (place_advance place)) he
  | _ => exact timingInv_inBurst hs runs place nofun nofun nofun he

/-! ### Every step -/

/-- CLOCK's free step before a move does not go back. -/
theorem MoveStart.timingInv {s s1 : State} (start : MoveStart s s1) (hs : TimingInv s) : TimingInv s1 := by
  have same : TimingUnchanged s s1 := by
    rw [start.eq]
    exact ⟨rfl, rfl, rfl, rfl, rfl, rfl⟩
  exact timingInv_of_unchanged hs same start.clock

/-- A move keeps the timing; only a listed one can drive the clock back. -/
theorem MoveEffect.timingInv {s s1 t : State} (effect : MoveEffect s s1 t) (hs : TimingInv s1)
    (clock : s.agenda ≠ [] → ns s1.now ≤ ns t.now) : TimingInv t := by
  cases effect with
  | held => exact hs
  | rst => exact timingInv_of_rest hs.slotEmpty hs.noEarlyWake rfl
  | clock _ listed =>
    have later := clock fun unlisted => by simp [unlisted] at listed
    exact timingInv_of_unchanged hs ⟨rfl, rfl, rfl, rfl, rfl, rfl⟩ later
  | sink | read | rejected | config =>
    exact timingInv_of_unchanged hs ⟨rfl, rfl, rfl, rfl, rfl, rfl⟩ (Nat.le_refl _)
  | command _ _ _ host he => exact (exec_command (issuer_of_command host) he).timingInv hs
  | micro _ _ runs _ place he => exact timingInv_micro hs runs place he

/-- Settles O59: CLOCK's free step does not go back, and a listed move starts at the time at which the step starts. -/
theorem stepKeepsTheTiming : Obligations.StepKeepsTheTiming := by
  intro s t hs h clock
  obtain ⟨s1, start, effect⟩ := step_effect hs.slotEmpty h
  refine effect.timingInv (start.timingInv hs) fun listed => ?_
  rw [(start.listed listed).1]
  exact clock

/-! ### The hand-over of a frame -/

theorem CommandEffect.trace {s t : State} (effect : CommandEffect s t) : t.trace = s.trace := by
  cases effect <;> rfl

/-- No operation but SEND and HALT emits an event (30 R88). -/
theorem exec_trace {i : Instr} {s t : State} (he : exec i s = .next t) (notSend : i ≠ .send) (notHalt : i ≠ .halt) :
    t.trace = s.trace := by
  cases i with
  | send => exact absurd rfl notSend
  | halt => exact absurd rfl notHalt
  | nop | validate | build | run => exact (exec_command rfl he).trace
  | fbZero | fbWrDmac | fbWrSmac | fbWrTag | fbWrEtype => obtain ⟨_, rfl⟩ := exec_builder rfl he; rfl
  | arm => rcases execArm_next he with ⟨-, rfl⟩ | ⟨-, rfl⟩ <;> rfl
  | wait => rcases execWait_next he with ⟨-, rfl⟩ | ⟨-, rfl⟩ <;> rfl
  | advance => rcases execAdvance_next he with ⟨-, rfl⟩ | ⟨-, rfl⟩ <;> rfl
  | finc => cases execFinc_next he; rfl
  | frst => cases execFrst_next he; rfl
  | sinc => cases execSinc_next he; rfl
  | bloop => rcases execBloop_next he with ⟨-, rfl⟩ | ⟨-, rfl⟩ <;> rfl
  | tchk => rcases execTchk_next he with ⟨-, rfl⟩ | ⟨-, rfl⟩ <;> rfl

/-- A hand-over is SEND's event, with the time at which SEND is executed (44 R125). -/
theorem exec_tx {i : Instr} {s t : State} {bytes : List Byte} {o : TxAnswer} {time : Nat}
    (he : exec i s = .next t) (event : t.trace = s.trace ++ [.tx bytes o time]) : i = .send ∧ time = ns s.now := by
  by_cases send : i = .send
  · subst send
    obtain ⟨_, -, rfl⟩ := execSend_next he
    simp only [List.append_cancel_left_eq, List.cons.injEq, Event.tx.injEq] at event
    obtain ⟨⟨-, -, atTime⟩, -⟩ := event
    exact ⟨rfl, atTime.symm⟩
  by_cases halt : i = .halt
  · subst halt
    cases execHalt_next he
    simp at event
  · simp [exec_trace he send halt] at event

/-- Only the sequencer at SEND's place hands a frame over. -/
theorem MoveEffect.tx {s s1 t : State} {bytes : List Byte} {o : TxAnswer} {time : Nat} (effect : MoveEffect s s1 t)
    (event : t.trace = s1.trace ++ [.tx bytes o time]) :
    stRuns s1.st = true ∧ (s1.upc, .send) ∈ romPlaces s1.params.seqIncPhase ∧ exec .send s1 = .next t ∧
      time = ns s1.now := by
  cases effect with
  | held | rst | clock | sink | read | rejected | config => simp at event
  | command i _ _ host he =>
    obtain ⟨rfl, -⟩ := exec_tx he event
    cases issuer_of_command host
  | micro i _ runs _ place he =>
    obtain ⟨rfl, atTime⟩ := exec_tx he event
    exact ⟨runs, place, he, atTime⟩

/-- Settles O53: the hand-over is SEND's, in a burst, and SEND changes neither the deadline nor the period. -/
theorem noFrameBeforeItsDeadline : Obligations.NoFrameBeforeItsDeadline := by
  intro s t bytes o time hs h event
  obtain ⟨s1, start, effect⟩ := step_effect hs.slotEmpty h
  have sameTrace : s1.trace = s.trace := by rw [start.eq]
  rw [← sameTrace] at event
  obtain ⟨runs, place, he, rfl⟩ := effect.tx event
  have come := deadline_le_at_burst (start.timingInv hs) runs place nofun nofun nofun
  obtain ⟨_, -, rfl⟩ := execSend_next he
  exact come

end Sys2Proof.Machine
end

section
/-!
The counter engine's operations (43 R114 to R118): each rewrites its counter's field of four bytes, always within the
buffer, and goes on in BURST_SENDING. From them O27 to O29.
-/
namespace Sys2Proof.Machine

/-! ### The field of a counter -/

/-- A counter written as its field is read byte by byte, the most significant first (20 R57). -/
theorem read_memWritten_counter (m : Memory) (a : Nat) (x : BitVec 32) {i : Nat} (h : i < 4) :
    (m.writeBytes a (netBytes 4 x.toNat)).read (a + i) = some (x.extractLsb' (24 - 8 * i) 8) := by
  rw [read_memWritten_slice m a x h, show 8 * (4 - 1 - i) = 24 - 8 * i by omega]

/-! ### Where each operation leads, in both phases -/

theorem fincNext_eq_ite (p : SeqIncPhase) : fincNext p = if p = .afterBurst then 4#5 else 5#5 := by
  cases p <;> rfl

theorem frstNext_eq_ite (p : SeqIncPhase) : frstNext p = if p = .afterBurst then 7#5 else 8#5 := by
  cases p <;> rfl

theorem sincNext_eq_ite (p : SeqIncPhase) : sincNext p = if p = .afterBurst then 8#5 else 4#5 := by
  cases p <;> rfl

/-! ### What each operation answers -/

/-- What goes on answers the one state it can. -/
theorem GoesOn.eq_next {o : Result} {t : State} (goesOn : GoesOn o) (only : ∀ u, o = .next u → u = t) :
    o = .next t := by
  obtain ⟨u, rfl⟩ := goesOn
  rw [only u rfl]

/-- FINC always answers, its field lying within the buffer, and then as `execFinc_next` says. -/
theorem execFinc_answer (s : State) : execFinc s = .next { s with
    fb := s.fb.writeBytes (offFrm s.cfg) (netBytes 4 (s.frameId + 1#32).toNat)
    frameId := s.frameId + 1#32
    upc := fincNext s.params.seqIncPhase
    st := .burstSending } :=
  ((goesOn_memWrite _ s (offFrm_bound s.cfg)).andThen fun _ => goesOn_next _).eq_next fun _ => execFinc_next

/-- FRST always answers, and then as `execFrst_next` says. -/
theorem execFrst_answer (s : State) : execFrst s = .next { s with
    fb := s.fb.writeBytes (offFrm s.cfg) (netBytes 4 0)
    frameId := 0#32
    upc := frstNext s.params.seqIncPhase
    st := .burstSending } :=
  ((goesOn_memWrite _ s (offFrm_bound s.cfg)).andThen fun _ => goesOn_next _).eq_next fun _ => execFrst_next

/-- SINC always answers, its field lying within the buffer, and then as `execSinc_next` says. -/
theorem execSinc_answer (s : State) : execSinc s = .next { s with
    fb := s.fb.writeBytes (offSeq s.cfg) (netBytes 4 (s.seqId + 1#32).toNat)
    seqId := s.seqId + 1#32
    seqWrapped := s.wrapFlag
    upc := sincNext s.params.seqIncPhase
    st := .burstSending } :=
  ((goesOn_memWrite _ s (offSeq_bound s.cfg)).andThen fun _ => goesOn_next _).eq_next fun _ => execSinc_next

/-! ### The frame counter -/

/-- Settles O27: FINC's answer is its field rewritten with the counter one higher. -/
theorem fincCountsAndRewrites : Obligations.FincCountsAndRewrites := by
  intro s
  refine ⟨_, execFinc_answer s, ?_, fun i inside => ?_, fun a outside => ?_⟩
  · rw [fincNext_eq_ite]
  · exact read_memWritten_counter s.fb (offFrm s.cfg) (s.frameId + 1#32) inside
  · exact read_memWritten_outside s.fb (offFrm s.cfg) 4 _ outside

/-- Settles O28: FRST's answer is its field rewritten with the number 0, all of whose bytes are 0. -/
theorem frstClearsAndRewrites : Obligations.FrstClearsAndRewrites := by
  intro s
  refine ⟨_, execFrst_answer s, ?_, fun i inside => ?_, fun a outside => ?_⟩
  · rw [frstNext_eq_ite]
  · exact (read_memWritten_field s.fb (offFrm s.cfg) 4 0 inside).trans (netBytes_zero_getElem? 4 i inside)
  · exact read_memWritten_outside s.fb (offFrm s.cfg) 4 0 outside

/-! ### The sequence counter -/

/-- The flag SINC leaves: set at the last value, as it was below it (43 R118). -/
theorem State.wrapFlag_eq_ite (s : State) :
    s.wrapFlag = if s.seqId = 0xFFFFFFFF#32 then true else s.seqWrapped := by
  by_cases last : s.seqId = 0xFFFFFFFF#32
  · simp [State.wrapFlag, last]
  · simp [State.wrapFlag, last]

/-- Settles O29: SINC's answer is its field rewritten with the counter one higher, and the flag of the wrap. -/
theorem sincCountsAndRewrites : Obligations.SincCountsAndRewrites := by
  intro s
  refine ⟨_, execSinc_answer s, ?_, BitVec.toNat_add s.seqId 1#32, fun i inside => ?_, fun a outside => ?_⟩
  · rw [sincNext_eq_ite, State.wrapFlag_eq_ite]
  · exact read_memWritten_counter s.fb (offSeq s.cfg) (s.seqId + 1#32) inside
  · exact read_memWritten_outside s.fb (offSeq s.cfg) 4 _ outside

end Sys2Proof.Machine
end

section
/-!
The micro-program of the default phase (44 R123, R124) and how the step executes the word it fetches (44 R122): O5
and O6.
-/
namespace Sys2Proof.Machine

/-! ### The micro-program -/

/-- Settles O5: the table is read off place by place, and no place from 12 on has a word or a state. -/
theorem microProgramOfDefaultPhase : Obligations.MicroProgramOfDefaultPhase := by
  refine ⟨fun u outside => ⟨romAt_of_ge _ outside, ?_⟩, rfl, rfl⟩
  exact Option.eq_none_iff_forall_ne_some.2 fun _ place => outside.not_gt (lt_of_stOf place)

/-! ### The step -/

theorem runMicroWord_of_decoded {b : Byte} {i : Instr} (decoded : decodeMicro b = .ok i) (s : State) :
    runMicroWord b s = exec i s := by
  simp only [runMicroWord, decoded]

/-- Where it runs and fetches a word that decodes, the sequencer executes the operation (44 R122). -/
theorem seqStep_of_fetched {s : State} {b : Byte} {i : Instr} (runs : stRuns s.st = true)
    (fetched : romAt s.params.seqIncPhase s.upc = some b) (decoded : decodeMicro b = .ok i) : seqStep s = exec i s := by
  simp only [seqStep, runs, if_true, fetchMicroWord, fetched, runMicroWord_of_decoded decoded]

/-- In IDLE, DONE and ERROR the sequencer has no step (44 R122). -/
theorem seqStep_of_rests {s : State} (rests : stRuns s.st = false) : seqStep s = .next s :=
  if_neg (by simp [rests])

/-- A word alone in the slot is run, with the outputs quiet and the slot emptied (log 10). -/
theorem step_of_slot {s : State} {b : Byte} (slot : s.microSlot = some b) :
    step s = runMicroWord b { s with microSlot := none, out := Ports.quiet } := by
  simp only [step, nextMove, State.beginStep, slot]

/-- Settles O6: by where the word comes from, the sequencer's listed move, its move after CLOCK's free step, or the
slot. -/
theorem stepRunsTheFetchedOperation : Obligations.StepRunsTheFetchedOperation := by
  refine ⟨fun s rest b i slot listed runs fetched decoded => ?_, fun s rest slot listed rests => ?_,
    fun s b i slot unlisted runs fetched decoded => ?_, fun s b i slot decoded => ?_⟩
  · rw [step_of_listed slot listed]
    exact seqStep_of_fetched runs fetched decoded
  · rw [step_of_listed slot listed]
    exact seqStep_of_rests rests
  · rw [step_of_unlisted slot unlisted]
    exact seqStep_of_fetched runs fetched decoded
  · rw [step_of_slot slot, runMicroWord_of_decoded decoded]

end Sys2Proof.Machine
end

section
/-!
The transmission loop's own operations (44 R125 to R128): what each answers, in both phases. From them O31, O32 and
O34 to O36.
-/
namespace Sys2Proof.Machine

/-! ### Where each operation leads, in both phases -/

theorem sendNext_eq_ite (p : SeqIncPhase) : sendNext p = if p = .afterBurst then 5#5 else 6#5 := by
  cases p <;> rfl

theorem bloopAgain_eq_ite (p : SeqIncPhase) : bloopAgain p = if p = .afterBurst then 3#5 else 4#5 := by
  cases p <;> rfl

theorem bloopDone_eq_ite (p : SeqIncPhase) : bloopDone p = if p = .afterBurst then 6#5 else 7#5 := by
  cases p <;> rfl

/-! ### SEND -/

/-- SINK's answer is the first one lined up, else a free one (log 3). -/
theorem State.sinkAnswer_eq_headD (s : State) :
    s.sinkAnswer = s.sinkQueue.headD (Config.sinkAnswer s.sinkDraws) := by
  unfold State.sinkAnswer
  cases s.sinkQueue <;> rfl

/-- The live part can be read where every byte of it has a value. -/
theorem Memory.exists_readBytes {m : Memory} {n : Nat} (written : ∀ a, a < n → (m.read a).isSome = true) :
    ∃ bytes, m.readBytes 0 n = some bytes := by
  refine ⟨List.ofFn fun a : Fin n => (m.read a).get (written a a.isLt), (Memory.readBytes_eq_some ..).2 ⟨?_, ?_⟩⟩
  · exact List.length_ofFn
  · intro a inside
    simp [inside]

/-- SEND answers where the live part can be read, and then as `execSend_next` says. -/
theorem execSend_of_readable {s : State} {bytes : List Byte} (live : s.fb.readBytes 0 (liveLen s.cfg) = some bytes) :
    execSend s = .next { s with
      sinkQueue := s.sinkQueue.tail
      sinkDraws := if s.sinkQueue = [] then s.sinkDraws + 1 else s.sinkDraws
      trace := s.trace ++ [.tx bytes s.sinkAnswer (ns s.now)]
      out := { s.out with txReq := true, txLen := BitVec.ofNat 11 (liveLen s.cfg), txData := bytes }
      upc := sendNext s.params.seqIncPhase
      st := .burstSending } := by
  have goesOn : GoesOn (execSend s) := by simp only [execSend, live, goesOn_next]
  refine goesOn.eq_next fun u he => ?_
  obtain ⟨read, live', rfl⟩ := execSend_next he
  obtain rfl : bytes = read := Option.some.inj (live.symm.trans live')
  rfl

/-- Settles O31: the bytes handed over are the live part as it is read. -/
theorem sendHandsOverTheBuffer : Obligations.SendHandsOverTheBuffer := by
  intro s written
  obtain ⟨bytes, live⟩ := Memory.exists_readBytes written
  obtain ⟨length, read⟩ := (Memory.readBytes_eq_some ..).1 live
  refine ⟨bytes, length, fun a inside => ?_, ?_⟩
  · rw [← read a inside, Nat.zero_add]
  · rw [← sendNext_eq_ite, ← State.sinkAnswer_eq_headD]
    exact execSend_of_readable live

/-- Settles O32: both runs hand over the live part, which does not depend on SINK. -/
theorem sendOutcomeChangesNothing : Obligations.SendOutcomeChangesNothing := by
  intro s t queue draws he
  obtain ⟨bytes, live, rfl⟩ := execSend_next he
  exact ⟨bytes, _, _, _, execSend_of_readable live, rfl, rfl, rfl⟩

/-! ### BLOOP, TCHK and HALT -/

/-- Settles O34: `frame_id` against `burst_size` decides between BLOOP's two places. -/
theorem bloopLoopsWhileFramesRemain : Obligations.BloopLoopsWhileFramesRemain := by
  intro s
  rw [← bloopAgain_eq_ite, ← bloopDone_eq_ite]
  refine ⟨fun more => (goesOn_next _).eq_next fun t he => ?_, fun full => (goesOn_next _).eq_next fun t he => ?_⟩
  · obtain ⟨-, again⟩ := (execBloop_next he).resolve_right fun done => done.1.not_gt more
    exact again
  · obtain ⟨-, done⟩ := (execBloop_next he).resolve_left fun again => full.not_gt again.1
    exact done

theorem State.runComplete_iff (s : State) :
    s.runComplete = true ↔ s.cfg.nBurstsEn = true ∧ s.seqId = s.cfg.nBursts := by
  rw [State.runComplete, Bool.and_eq_true, decide_eq_true_iff]

theorem State.runComplete_eq_false_iff (s : State) :
    s.runComplete = false ↔ s.cfg.nBurstsEn = false ∨ s.seqId ≠ s.cfg.nBursts := by
  rw [← Bool.not_eq_true, State.runComplete_iff, not_and_or, Bool.not_eq_true]

/-- Settles O35: whether the bounded run is complete decides between TCHK's two places. -/
theorem tchkEndsTheBoundedRun : Obligations.TchkEndsTheBoundedRun := by
  intro s
  refine ⟨fun atBound => (goesOn_next _).eq_next fun t he => ?_, fun below => (goesOn_next _).eq_next fun t he => ?_⟩
  · have complete := s.runComplete_iff.2 atBound
    obtain ⟨-, ends⟩ := (execTchk_next he).resolve_right (by simp [complete])
    exact ends
  · have incomplete := s.runComplete_eq_false_iff.2 below
    obtain ⟨-, goesOn⟩ := (execTchk_next he).resolve_left (by simp [incomplete])
    exact goesOn

/-- Settles O36: HALT always answers, and then as `execHalt_next` says. -/
theorem haltReleasesAndEnds : Obligations.HaltReleasesAndEnds :=
  fun _ => (goesOn_next _).eq_next fun _ => execHalt_next

end Sys2Proof.Machine
end

section
/-!
The length of a bounded run (44 R130): each operation leads from its place to one that stands exactly one
micro-operation nearer the end. From it O54 and O55.
-/
namespace Sys2Proof.Machine

open Sys2Proof.Safety

/-! ### The micro-operations left, from place to place -/

theorem opsLeftAt_arm {f b q n : Nat} : opsLeftAt 1 f b q n + 1 = opsLeftAt 0 f b q n := by
  simp only [opsLeftAt]
  omega

theorem opsLeftAt_wait {u : BitVec 5} {f b q n : Nat} (place : u = 1#5 ∨ u = 9#5) :
    opsLeftAt (u + 1#5).toNat f b q n + 1 = opsLeftAt u.toNat f b q n := by
  rcases place with rfl | rfl
  all_goals
    simp only [opsLeftAt, BitVec.reduceAdd, BitVec.reduceToNat]
    omega

/-- ADVANCE starts a burst, with no frame counted. -/
theorem opsLeftAt_advance {u : BitVec 5} {f b q n : Nat} (place : u = 2#5 ∨ u = 10#5) (frames : f = 0) :
    opsLeftAt 3 f b q n + 1 = opsLeftAt u.toNat f b q n := by
  rcases place with rfl | rfl
  all_goals
    simp only [opsLeftAt, burstOps, frames, BitVec.reduceToNat]
    omega

theorem opsLeftAt_finc {f f' b q n : Nat} (more : f < b) (counted : f' = f + 1) :
    opsLeftAt 4 f' b q n + 1 = opsLeftAt 3 f b q n := by
  simp only [opsLeftAt]
  omega

theorem opsLeftAt_send {f b q n : Nat} : opsLeftAt 5 f b q n + 1 = opsLeftAt 4 f b q n := by
  simp only [opsLeftAt]
  omega

theorem opsLeftAt_bloopAgain {f b q n : Nat} : opsLeftAt 3 f b q n + 1 = opsLeftAt 5 f b q n := by
  simp only [opsLeftAt]
  omega

theorem opsLeftAt_bloopDone {f b q n : Nat} (full : b ≤ f) : opsLeftAt 6 f b q n + 1 = opsLeftAt 5 f b q n := by
  simp only [opsLeftAt]
  omega

theorem opsLeftAt_frst {f f' b q n : Nat} : opsLeftAt 7 f' b q n + 1 = opsLeftAt 6 f b q n := by
  simp only [opsLeftAt]
  omega

theorem opsLeftAt_sinc {f b q q' n : Nat} (counted : q' = q + 1) :
    opsLeftAt 8 f b q' n + 1 = opsLeftAt 7 f b q n := by
  simp only [opsLeftAt, counted]
  omega

/-- At the bound only HALT is left after TCHK. -/
theorem opsLeftAt_tchkEnds {f b q n : Nat} (atBound : n ≤ q) : opsLeftAt 11 f b q n + 1 = opsLeftAt 8 f b q n := by
  simp only [opsLeftAt, opsAfterCheck, Nat.sub_eq_zero_of_le atBound, Nat.zero_mul]

/-- Below the bound TCHK leaves the two operations of a wait, one burst more, and what follows that burst's TCHK. -/
theorem opsLeftAt_tchkGoesOn {f b q n : Nat} (below : q < n) : opsLeftAt 9 f b q n + 1 = opsLeftAt 8 f b q n := by
  have oneMore : n - q = n - (q + 1) + 1 := by omega
  simp only [opsLeftAt, opsAfterCheck, oneMore, Nat.succ_mul]
  omega

theorem opsLeftAt_halt {f b q n : Nat} : opsLeftAt 11 f b q n = 1 := rfl

/-- At every place an operation is left, at least the one that stands there. -/
theorem opsLeftAt_pos (u f b q n : Nat) : 0 < opsLeftAt u f b q n := by
  unfold opsLeftAt opsAfterCheck
  split <;> omega

/-! ### The micro-operations left in a state -/

theorem opsLeft_of_runs {s : State} (runs : stRuns s.st = true) :
    opsLeft s = opsLeftAt s.upc.toNat s.frameId.toNat s.cfg.burstSize.toNat s.seqId.toNat s.cfg.nBursts.toNat :=
  if_pos runs

theorem opsLeft_of_rests {s : State} (rests : stRuns s.st = false) : opsLeft s = 0 := if_neg (by simp [rests])

theorem opsLeft_eq_zero_iff (s : State) : opsLeft s = 0 ↔ stRuns s.st = false := by
  refine ⟨fun none => Bool.eq_false_iff.2 fun runs => ?_, opsLeft_of_rests⟩
  rw [opsLeft_of_runs runs] at none
  exact (opsLeftAt_pos ..).ne' none

theorem lt_of_belowBound {q : Nat} {c : Cfg} (bounded : c.nBurstsEn = true) (below : belowBound q (bound c)) :
    q < c.nBursts.toNat := by
  rwa [bound, if_pos bounded] at below

/-! ### One micro-operation -/

/-- One micro-operation nearer the end of the run: the sequencer goes on, or the run is over. -/
structure CountsDown (s t : State) : Prop where
  oneLess : opsLeft t + 1 = opsLeft s
  goesOnOrEnds : stRuns t.st = true ∨ t.st = .done

/-- A sequencer that goes on from place `u` to `u'`, one micro-operation nearer the end, counts down. -/
theorem countsDown_of_place {s t : State} {u u' : BitVec 5} (runs : stRuns s.st = true) (runsOn : stRuns t.st = true)
    (place : s.upc = u) (nextPlace : t.upc = u')
    (oneLess : opsLeftAt u'.toNat t.frameId.toNat t.cfg.burstSize.toNat t.seqId.toNat t.cfg.nBursts.toNat + 1 =
      opsLeftAt u.toNat s.frameId.toNat s.cfg.burstSize.toNat s.seqId.toNat s.cfg.nBursts.toNat) : CountsDown s t := by
  subst place nextPlace
  exact ⟨by rw [opsLeft_of_runs runs, opsLeft_of_runs runsOn, oneLess], .inl runsOn⟩

/-- In the default phase every operation of a bounded run that is executed counts down: a held WAIT is not, and a
fault is none (44 R130). -/
theorem countsDown_micro {s t : State} {i : Instr} (hs : SequencerInv s) (phase : s.params.seqIncPhase = .afterBurst)
    (bounded : s.cfg.nBurstsEn = true) (runs : stRuns s.st = true)
    (place : (s.upc, i) ∈ romPlaces s.params.seqIncPhase) (enabled : i = .wait → s.waitEnabled = true)
    (he : exec i s = .next t) (noError : t.st ≠ .error) : CountsDown s t := by
  have checked := ordered_checked hs.toOrdered runs
  have counts : CountsAtPlace s := hs.runsCount runs
  rw [phase] at place
  rw [CountsAtPlace, phase] at counts
  cases i with
  | arm =>
    rcases execArm_next he with ⟨-, rfl⟩ | ⟨-, rfl⟩
    · exact countsDown_of_place runs rfl (place_arm place) rfl opsLeftAt_arm
    · exact absurd rfl noError
  | wait =>
    have stands := place_wait place
    rcases execWait_next he with ⟨-, rfl⟩ | ⟨held, -⟩
    · exact countsDown_of_place runs (stRuns_of_stOf (stOf_afterWait stands)) rfl rfl (opsLeftAt_wait stands)
    · simp [enabled rfl] at held
  | advance =>
    have stands := place_advance place
    obtain ⟨frames, -⟩ := countersAt_advance (by simpa [← BitVec.toNat_inj] using stands) (belowBound_zero checked)
      counts
    rcases execAdvance_next he with ⟨-, rfl⟩ | ⟨-, rfl⟩
    · exact countsDown_of_place runs rfl rfl rfl (opsLeftAt_advance stands frames)
    · exact absurd rfl noError
  | finc =>
    have stands := place_finc place
    rw [stands] at counts
    have more := lt_of_countersAt_finc counts
    have counted : (s.frameId + 1#32).toNat = s.frameId.toNat + 1 := by bv_omega
    cases execFinc_next he
    exact countsDown_of_place runs rfl stands (congrArg fincNext phase) (opsLeftAt_finc more counted)
  | send =>
    obtain ⟨_, -, rfl⟩ := execSend_next he
    exact countsDown_of_place runs rfl (place_send place) (congrArg sendNext phase) opsLeftAt_send
  | bloop =>
    have stands := place_bloop place
    rcases execBloop_next he with ⟨-, rfl⟩ | ⟨full, rfl⟩
    · exact countsDown_of_place runs rfl stands (congrArg bloopAgain phase) opsLeftAt_bloopAgain
    · exact countsDown_of_place runs rfl stands (congrArg bloopDone phase) (opsLeftAt_bloopDone full)
  | frst =>
    cases execFrst_next he
    exact countsDown_of_place runs rfl (place_frst place) (congrArg frstNext phase) opsLeftAt_frst
  | sinc =>
    obtain ⟨-, below⟩ := countersAt_sinc place counts
    have notLast := ne_last_of_belowBound bounded below
    have counted : (s.seqId + 1#32).toNat = s.seqId.toNat + 1 := by bv_omega
    obtain ⟨-, stands⟩ := (place_sinc place).resolve_right (by simp)
    cases execSinc_next he
    exact countsDown_of_place runs rfl stands (congrArg sincNext phase) (opsLeftAt_sinc counted)
  | tchk =>
    have stands := place_tchk place
    rw [stands] at counts
    obtain ⟨-, within⟩ := countersAt_tchk counts
    rcases execTchk_next he with ⟨complete, rfl⟩ | ⟨incomplete, rfl⟩
    · have atBound : s.cfg.nBursts.toNat ≤ s.seqId.toNat := by rw [(s.runComplete_iff.1 complete).2]
      exact countsDown_of_place runs rfl stands rfl (opsLeftAt_tchkEnds atBound)
    · have below := lt_of_belowBound bounded (belowBound_of_not_runComplete incomplete within)
      exact countsDown_of_place runs rfl stands rfl (opsLeftAt_tchkGoesOn below)
  | halt =>
    have last : opsLeft s = 1 := by
      rw [opsLeft_of_runs runs, place_halt place]
      exact opsLeftAt_halt
    cases execHalt_next he
    exact ⟨last.symm, .inr rfl⟩
  | _ => cases issuer_of_place place

/-- Settles O54: the listed move of the sequencer executes the operation at its place, which counts down. -/
theorem eachMicroOperationCountsDown : Obligations.EachMicroOperationCountsDown := by
  intro s t rest hs phase bounded runs listed waits h noError
  have hs1 : SequencerInv { s with agenda := rest, out := Ports.quiet } :=
    sequencerInv_keptByMoves.environment hs s.now Ports.quiet rest s.sinkQueue s.clockDraws s.cmdRej
  rw [step_of_listed hs.slotEmpty listed] at h
  rcases seqStep_next h with ⟨rests, -⟩ | ⟨-, b, i, -, -, place, he⟩
  · simp [runs] at rests
  have enabled : i = .wait → s.waitEnabled = true := by
    rintro rfl
    exact s.waitEnabled_iff.2 (waits (place_wait place))
  obtain ⟨oneLess, goesOnOrEnds⟩ := countsDown_micro hs1 phase bounded runs place enabled he noError
  refine ⟨oneLess, (opsLeft_eq_zero_iff t).trans ⟨fun rests => ?_, fun done => by simp [done, stRuns]⟩⟩
  exact goesOnOrEnds.resolve_left (by simp [rests])

/-! ### The whole run -/

/-- From its first place a run of `n` bursts has as many micro-operations before it as 44 R130 counts. -/
theorem opsLeftAt_start {b n : Nat} (burst : 0 < n) :
    opsLeftAt 0 0 b 0 n = 3 + n * (3 * b + 3) + 2 * (n - 1) + 1 := by
  obtain ⟨n, rfl⟩ := Nat.exists_eq_add_one_of_ne_zero burst.ne'
  simp only [opsLeftAt, opsAfterCheck, burstOps, Nat.add_sub_cancel, Nat.zero_add]
  ring

/-- Settles O55: RUN is accepted and leaves the sequencer at place 0 with both counters 0. -/
theorem boundedRunLength : Obligations.BoundedRunLength := by
  intro s t hs bounded isBuilt valid idle he
  obtain ⟨-, seqZero, frmZero⟩ := hs.idleAtZero idle
  have burst := lt_of_belowBound bounded (belowBound_zero (hs.validIsChecked valid))
  obtain rfl := Host.Outcome.next.inj ((runEntersArming s idle valid isBuilt).symm.trans he)
  rw [opsLeft_of_runs rfl, seqZero, frmZero]
  exact opsLeftAt_start burst

end Sys2Proof.Machine
end

section
/-!
Rejection and the terminal states (60 R139, R142): in DONE and ERROR no move but reset writes the block, and when
each host command is accepted. From them O46 and O15.
-/
namespace Sys2Proof.Machine

/-! ### DONE and ERROR -/

/-- A move starts from the same block: only the agenda, the time, CLOCK's draws and the outputs can differ. -/
theorem MoveStart.exists_eq {s s1 : State} (start : MoveStart s s1) :
    ∃ now draws, s1 = { s with agenda := s.agenda.tail, clockDraws := draws, now := now, out := Ports.quiet } :=
  ⟨s1.now, s1.clockDraws, by rw [← start.agenda]; exact start.eq⟩

/-- Outside IDLE no command is accepted (40 R90). -/
theorem CommandEffect.of_not_idle {s t : State} (effect : CommandEffect s t) (notIdle : s.st ≠ .idle) :
    t = s ∨ t = { s with cmdRej := true } := by
  cases effect with
  | nothing => exact .inl rfl
  | rejected => exact .inr rfl
  | validated idle | failed idle | built idle | started idle => exact absurd idle notIdle

/-- Settles O46: in a state that is neither IDLE nor running, the configuration is locked, no command is accepted and
the sequencer has no operation, so every move but reset leaves the block. -/
theorem doneAndErrorAreTerminal : Obligations.DoneAndErrorAreTerminal := by
  intro s t slot terminal noReset h
  have rests : stRuns s.st = false := (stRests_iff s.st).2 (.inr terminal)
  have notIdle : s.st ≠ .idle := fun idle => by simp [idle] at terminal
  obtain ⟨s1, start, effect⟩ := step_effect slot h
  obtain ⟨now, draws, rfl⟩ := start.exists_eq
  cases effect with
  | held | clock | sink | read | rejected => rfl
  | rst isReset => exact absurd isReset noReset
  | config _ _ idle => exact absurd idle notIdle
  | command i _ _ host he =>
    rcases (exec_command (issuer_of_command host) he).of_not_idle notIdle with rfl | rfl <;> rfl
  | micro _ _ runs => simp [rests] at runs

/-! ### Acceptance of the host commands -/

theorem State.acceptsValidate_iff (s : State) : s.acceptsValidate = true ↔ s.st = .idle ∧ s.cfgValid = false := by
  simp [State.acceptsValidate]

theorem State.acceptsBuild_iff (s : State) :
    s.acceptsBuild = true ↔ s.st = .idle ∧ s.cfgValid = true ∧ s.built = false := by
  simp [State.acceptsBuild, and_assoc]

theorem State.acceptsRun_iff (s : State) :
    s.acceptsRun = true ↔ s.st = .idle ∧ s.cfgValid = true ∧ s.built = true := by
  simp [State.acceptsRun, and_assoc]

/-- Settles O15: each clause's premise contradicts the acceptance condition without which its command rejects. -/
theorem commandsOutOfOrderAreRejected : Obligations.CommandsOutOfOrderAreRejected := by
  intro s
  refine ⟨fun outside => if_neg fun accepted => ?_, fun outside => if_neg fun accepted => ?_,
    fun outside => if_neg fun accepted => ?_⟩
  · obtain ⟨idle, unchecked⟩ := s.acceptsValidate_iff.1 accepted
    simp [idle, unchecked] at outside
  · obtain ⟨idle, valid, unbuilt⟩ := s.acceptsBuild_iff.1 accepted
    simp [idle, valid, unbuilt] at outside
  · obtain ⟨idle, valid, isBuilt⟩ := s.acceptsRun_iff.1 accepted
    simp [idle, valid, isBuilt] at outside

end Sys2Proof.Machine
end

section
/-!
The reset move (70 R153, R154): the step that takes the machine back to the state after reset. From it O44.
-/
namespace Sys2Proof.Machine

/-- Settles O44: the listed move is reset, which keeps the environment and the trace; the one field left to compare is
the slot, which is empty before the move and after reset. -/
theorem resetMoveRestoresResetState : Obligations.ResetMoveRestoresResetState := by
  intro s rest slot listed
  have slotAtReset : s.microSlot = State.reset.microSlot := slot
  rw [step_of_listed slot listed, perform, State.doReset, slotAtReset]

end Sys2Proof.Machine
end
